-- ==== Sys2Proof/Word.lean ====
section
/-! DEFINITION. The word of the machine (spec/00_scope.md R5, R8). -/

namespace Sys2Proof

/-- The machine's only unit of storage and of instruction width: 16 bits (R5, R8).
`+`, `-` and `*` on it are taken modulo 65536, as R8 asks. -/
abbrev Word := BitVec 16

/-- An index into the memory of 65536 words: the same type as `Word` (R8). -/
abbrev Addr := Word

end Sys2Proof
end

