-- ==== Sys2Proof/Syntax.lean ====
section
/-! DEFINITION. The instructions as terms: registers, opcodes and one constructor for each of the 23 rows of
spec/opcode_table.json. Every operand has exactly the type its field can hold (R89 to R92, R94: no instruction is
illegal because of its operands), so every term is well formed. The bits a format marks unused are no operand:
the decoder ignores them (R96). -/

namespace Sys2Proof

/-- The eight general registers (10_state.md R21). PC, COND and MAR have no index an instruction can use (R20). -/
inductive Reg where
  | r0 | r1 | r2 | r3 | r4 | r5 | r6 | r7
  deriving DecidableEq, Repr

/-- The sixteen opcode values (30_encoding.md R93): fifteen instructions, and the unassigned value 0xF (R95). -/
inductive Op where
  | halt | loadc | move | loadm | storem | jump | add | sub | mul | div | not | eq | lt | le | dbg | unassigned
  deriving DecidableEq, Repr

/-- One constructor for each row of spec/opcode_table.json, its operands in the order of the row's fields, most
significant field first. ADD, SUB, MUL, DIV, EQ, LT and LE have a row for the register form (IMM_FLAG = 0) and one for
the immediate form (IMM_FLAG = 1). -/
inductive Instr where
  /-- R130. -/
  | halt
  /-- R141: REG, CONST9. -/
  | loadc (reg : Reg) (const9 : BitVec 9)
  /-- R142: the source field comes first. -/
  | move (src dst : Reg)
  /-- R143: REG, OFFSET9. -/
  | loadm (reg : Reg) (offset9 : BitVec 9)
  /-- R144: REG, OFFSET9 (decoded; the hardware does not use it). -/
  | storem (reg : Reg) (offset9 : BitVec 9)
  /-- R150: SIGN, then the unsigned magnitude OFFSET. -/
  | jump (sign : BitVec 1) (offset : BitVec 10)
  /-- R157. -/
  | addReg (dr sr1 sr2 : Reg)
  /-- R157. -/
  | addImm (dr sr1 : Reg) (imm5 : BitVec 5)
  /-- R158. -/
  | subReg (dr sr1 sr2 : Reg)
  /-- R158. -/
  | subImm (dr sr1 : Reg) (imm5 : BitVec 5)
  /-- R159. -/
  | mulReg (dr sr1 sr2 : Reg)
  /-- R159. -/
  | mulImm (dr sr1 : Reg) (imm5 : BitVec 5)
  /-- R160. -/
  | divReg (dr sr1 sr2 : Reg)
  /-- R160. -/
  | divImm (dr sr1 : Reg) (imm5 : BitVec 5)
  /-- R161: the destination field comes first. -/
  | not (dr sr : Reg)
  /-- R171: the row's field R1, then SR2 or IMM8. -/
  | eqReg (lhs sr2 : Reg)
  /-- R171: the row's field R1, then SR2 or IMM8. -/
  | eqImm (lhs : Reg) (imm8 : BitVec 8)
  /-- R172. -/
  | ltReg (lhs sr2 : Reg)
  /-- R172. -/
  | ltImm (lhs : Reg) (imm8 : BitVec 8)
  /-- R173. -/
  | leReg (lhs sr2 : Reg)
  /-- R173. -/
  | leImm (lhs : Reg) (imm8 : BitVec 8)
  /-- R131. -/
  | dbg
  /-- R132: not an instruction but the decoder's fault arm; the table gives it a row. -/
  | unassigned
  deriving DecidableEq, Repr

/-- The opcode of an instruction (the table's "opcode" column). -/
def Instr.op : Instr → Op
  | .halt => .halt
  | .loadc _ _ => .loadc
  | .move _ _ => .move
  | .loadm _ _ => .loadm
  | .storem _ _ => .storem
  | .jump _ _ => .jump
  | .addReg _ _ _ => .add
  | .addImm _ _ _ => .add
  | .subReg _ _ _ => .sub
  | .subImm _ _ _ => .sub
  | .mulReg _ _ _ => .mul
  | .mulImm _ _ _ => .mul
  | .divReg _ _ _ => .div
  | .divImm _ _ _ => .div
  | .not _ _ => .not
  | .eqReg _ _ => .eq
  | .eqImm _ _ => .eq
  | .ltReg _ _ => .lt
  | .ltImm _ _ => .lt
  | .leReg _ _ => .le
  | .leImm _ _ => .le
  | .dbg => .dbg
  | .unassigned => .unassigned

end Sys2Proof
end

