-- ==== Sys2Proof/Config.lean ====
section
/-! DEFINITION. What an implementation fixes: the types of the parameters of spec/00_scope.md R6, and the reset values
the model's assumption log names. The VALUES of the parameters a test could show wrong stand where a repair may mend
them: the field positions in Sys2Proof/Decode.lean (`fieldPos`), the others in Sys2Proof/Machine/Params.lean
(`params`). Every one is an argument of the parametric machine of Sys2Proof/Machine/Parametric.lean; `exec` and `step` are
that machine at this hardware's values. There is no free value in this model: the spec leaves no result of an instruction open. -/

namespace Sys2Proof

/-- The positions of the fields the source's table does not pin (R82, 92_eei_decisions.md D3): each the bit number of
the field's least significant bit. -/
structure FieldPos where
  /-- JUMP_SIGN_BIT. -/
  jumpSignBit : Nat
  /-- JUMP_OFF_LO. -/
  jumpOffLo : Nat
  /-- ALU_SR2_LO. -/
  aluSr2Lo : Nat
  /-- CMP_SR2_LO. -/
  cmpSr2Lo : Nat
  deriving DecidableEq, Repr

/-- The three values of the condition-flags register (10_state.md R28). -/
inductive Cond where
  | positive | zero | negative
  deriving DecidableEq, Repr

/-- COND_ENC: the 16-bit patterns of the three values (R31, D10). -/
structure CondEnc where
  positive : Word
  zero : Word
  negative : Word
  deriving DecidableEq, Repr

/-- The parameters of R6 that every step takes. The reset values GPR_INIT, MEM_INIT and MAR_INIT are arguments of
`State.boot`, and IMAGE_BYTE_ORDER is one of the host's `imageOfBytes`. -/
structure Params where
  /-- JUMP_SIGN_BIT, JUMP_OFF_LO, ALU_SR2_LO, CMP_SR2_LO (D3, R82). -/
  pos : FieldPos
  /-- STOREM_USES_OFFSET (D16, R58). -/
  storemUsesOffset : Bool
  /-- LT_SIGNED (D7, R172). -/
  ltSigned : Bool
  /-- LE_IS_LT (D17, R173). -/
  leIsLt : Bool
  /-- FLAG_WRITERS (D9, R29): the opcodes whose register write updates COND. -/
  flagWriters : List Op
  /-- COND_ENC (D10, R31). -/
  condEnc : CondEnc
  deriving DecidableEq, Repr

/-- What a memory word nothing has written reads as. DESIGN CHOICE, unsafe (log entry 2): the spec leaves MEM_INIT
open (R42, D12). -/
def Config.unwrittenWord : Word := 0#16

/-- What each of R0 to R7 holds in `State.reset`. DESIGN CHOICE, unsafe (log entry 3): the spec leaves GPR_INIT open
(R23, D11). -/
def Config.gprReset : Word := 0#16

/-- What MAR holds in `State.reset`. DESIGN CHOICE, unsafe (log entry 4): the spec has the environment supply MAR_INIT
(R33, R216, D13). -/
def Config.marReset : Word := 0#16

end Sys2Proof
end

