-- ==== Sys2Proof/Machine/Memory.lean ====
section
/-! DEFINITION. The memory: 65536 words of 16 bits (20_memory.md R50), held as plain data. The machine has no bytes and
no byte order (R61), so a cell is a word address with a word (log entry 1), the smallest unit the spec addresses. ONE
canonical form: addresses strictly rising, no cell equal to what an unlisted address reads as, no address past 65535. -/

namespace Sys2Proof.Machine

/-- The listed words: address and content. Every address that is not listed reads `Config.unwrittenWord`. -/
abbrev Memory := List (Nat × Word)

/-- The canonical form. -/
abbrev Memory.wf (m : Memory) : Prop :=
  m.Pairwise (fun c d => c.1 < d.1) ∧ ∀ c ∈ m, c.1 < 65536 ∧ c.2 ≠ Config.unwrittenWord

/-- The word listed at a plain address, or what an unlisted one reads as. -/
def Memory.lookup (m : Memory) (a : Nat) : Word :=
  match m with
  | [] => Config.unwrittenWord
  | (k, v) :: rest => if k = a then v else Memory.lookup rest a

/-- `MemRead(a)`: the word at `a`; it always succeeds and changes nothing (R52). -/
def Memory.read (m : Memory) (a : Addr) : Word := Memory.lookup m a.toNat

/-- The memory with every cell of address `a` taken out. -/
def Memory.erase (m : Memory) (a : Nat) : Memory := m.filter (fun c => c.1 != a)

/-- The memory with the cell `(a, v)` put before the first cell of a larger address. -/
def Memory.insert (m : Memory) (a : Nat) (v : Word) : Memory :=
  match m with
  | [] => [(a, v)]
  | (k, w) :: rest => if a < k then (a, v) :: (k, w) :: rest else (k, w) :: Memory.insert rest a v

/-- `MemWrite(a, v)`: the word at `a` becomes `v`, every other word stays (R52); it always succeeds. Writing what an
unlisted address reads as leaves the address unlisted. -/
def Memory.write (m : Memory) (a : Addr) (v : Word) : Memory :=
  if v = Config.unwrittenWord then Memory.erase m a.toNat
  else Memory.insert (Memory.erase m a.toNat) a.toNat v

/-- The words of `image` written from address `a` upward. Past address 65535 it goes on at address 0. DESIGN CHOICE
(log entry 19): the spec gives no behaviour for an image that does not fit (91_not_in_source.md N31), and no start of a
run reaches this: `bootImage` and `assemble` take only an image that `imageFits`. -/
def Memory.loadFrom (m : Memory) (a : Nat) (image : List Word) : Memory :=
  match image with
  | [] => m
  | w :: rest => Memory.loadFrom (Memory.write m (BitVec.ofNat 16 a) w) (a + 1) rest

/-- The loader: image word `i` at address `i`, for an image of at most 65536 words (70_reset_and_hazards.md R214,
30_encoding.md R104). What it does with a longer one is the model's choice (log entry 19). -/
def Memory.load (m : Memory) (image : List Word) : Memory := Memory.loadFrom m 0 image

end Sys2Proof.Machine
end

