-- ==== Sys2Proof/Machine/Registers.lean ====
section
/-! DEFINITION. The general registers R0 to R7 (10_state.md R20, R21): the one place that reads and writes them. -/

namespace Sys2Proof.Machine

/-- R0 to R7, each one word; none is hardwired (R21). -/
structure Regs where
  r0 : Word
  r1 : Word
  r2 : Word
  r3 : Word
  r4 : Word
  r5 : Word
  r6 : Word
  r7 : Word
  deriving DecidableEq, Repr

/-- All eight registers holding one value. -/
def Regs.all (v : Word) : Regs := ⟨v, v, v, v, v, v, v, v⟩

/-- `x[i]` (00_scope.md R10). -/
def Regs.get (x : Regs) : Reg → Word
  | .r0 => x.r0
  | .r1 => x.r1
  | .r2 => x.r2
  | .r3 => x.r3
  | .r4 => x.r4
  | .r5 => x.r5
  | .r6 => x.r6
  | .r7 => x.r7

/-- `x[i] <- v` (R10): a full 16-bit write of one register (40_execution_cycle.md R119). -/
def Regs.set (x : Regs) (r : Reg) (v : Word) : Regs :=
  match r with
  | .r0 => { x with r0 := v }
  | .r1 => { x with r1 := v }
  | .r2 => { x with r2 := v }
  | .r3 => { x with r3 := v }
  | .r4 => { x with r4 := v }
  | .r5 => { x with r5 := v }
  | .r6 => { x with r6 := v }
  | .r7 => { x with r7 := v }

end Sys2Proof.Machine
end

