-- ==== Sys2Proof/Machine/State.lean ====
section
/-! DEFINITION. The state of the machine (10_state.md): every piece the spec names, as plain data, its reset, and the
reasons a step can stop. -/

namespace Sys2Proof.Machine

/-- The run state (10_state.md R34). -/
inductive RunState where
  | running | halted | faulted
  deriving DecidableEq, Repr

/-- The values of the fault_cause register (R35, 60_exceptions.md R184). -/
inductive FaultCause where
  | none | unknownOpcode | divisionByZero
  deriving DecidableEq, Repr

/-- One record of the debug output stream: the nine words `(pc, x[0], ..., x[7])` (R38, 41_system.md R131). -/
structure DbgRecord where
  pc : Word
  x : Regs
  deriving DecidableEq, Repr

/-- Every piece of state of 10_state.md. -/
structure State where
  /-- R0 to R7 (R21). -/
  regs : Regs
  /-- The program counter: between steps the address of the next instruction, during an instruction its own address
  plus 1 (R24). -/
  pc : Word
  /-- The condition-flags register (R28). -/
  cond : Cond
  /-- The base of the mapped window (R32). -/
  mar : Word
  /-- The memory array (R39). -/
  mem : Memory
  /-- The run state (R34). -/
  run : RunState
  /-- The fault record: which fault (R35). -/
  faultCause : FaultCause
  /-- The fault record: the word that faulted (R35). -/
  faultIr : Word
  /-- The fault record: the address it was fetched from (R35). -/
  faultPc : Word
  /-- The debug output stream, oldest record first, append-only (R38). -/
  dbg : List DbgRecord
  /-- The fetched instruction word (R36): loaded by every fetch, read by the fault entry of the same step, and by
  nothing of a later step (log entry 5). -/
  ir : Word
  deriving DecidableEq, Repr

/-- Why a step could stop the MODEL. No reason exists: the spec's two faults, UnknownOpcode and DivisionByZero
(60_exceptions.md R180), are entries into the state FAULTED that the spec describes in full (R185), so they are next
states, and every other step is a total function of the state (40_execution_cycle.md R114). Log entry 12; safe. -/
inductive Fault where
  deriving DecidableEq, Repr

/-- Why an instruction could be refused. -/
inductive Refusal where
  /-- An arm of `exec` with no meaning yet would raise it, with the table's mnemonic. Safe. No arm does: every row of
  spec/opcode_table.json has its meaning. -/
  | notModelled (mnemonic : String)
  deriving DecidableEq, Repr

/-- The three outcomes of one instruction or one step. -/
abbrev Result := Host.Outcome State Fault Refusal

/-- The machine at power-up right after the reset sequence (70_reset_and_hazards.md R211, 10_state.md R42), for every
value of the open parameters GPR_INIT, MAR_INIT and MEM_INIT of 00_scope.md R6. `Config.unwrittenWord` takes no part:
the PC is the header word of the memory given. -/
def State.boot (gprInit : Regs) (marInit : Word) (memInit : Memory) : State where
  regs := gprInit
  pc := Memory.read memInit 0#16
  cond := .zero
  mar := marInit
  mem := memInit
  run := .running
  faultCause := .none
  faultIr := 0#16
  faultPc := 0#16
  dbg := []
  ir := 0#16

/-- The machine right after reset with nothing loaded: `State.boot` at the values the assumption log names for what
the spec leaves open (log entries 2, 3, 4, 5). -/
def State.reset : State := State.boot (Regs.all Config.gprReset) Config.marReset []

end Sys2Proof.Machine
end

