-- ==== Sys2Proof/Machine/Alu.lean ====
section
/-! DEFINITION. The ALU's operations on two words (40_execution_cycle.md R120, 44_alu.md R155, 45_compare.md R170). -/

namespace Sys2Proof.Machine

/-- `add`: the sum modulo 65536. -/
def aluAdd (a b : Word) : Word := a + b

/-- `sub`: the difference modulo 65536. -/
def aluSub (a b : Word) : Word := a - b

/-- `mul`: the low 16 bits of the product. -/
def aluMul (a b : Word) : Word := a * b

/-- `divu`: the unsigned quotient, rounded down; for a zero divisor no result (44_alu.md R160). -/
def aluDivu (a b : Word) : Option Word := if b = 0#16 then none else some (a.udiv b)

/-- `complement`: every bit inverted. -/
def aluComplement (a : Word) : Word := a ^^^ 0xFFFF#16

/-- `eq`: equality of all 16 bits (R171). -/
def aluEq (a b : Word) : Bool := a == b

/-- The relation of LT: unsigned, or signed when LT_SIGNED is true (R172). -/
def aluLess (signed : Bool) (a b : Word) : Bool := if signed then a.slt b else a.ult b

/-- The relation of LE: that of LT when LE_IS_LT is true, else less-or-equal (R173). -/
def aluLessEq (leIsLt signed : Bool) (a b : Word) : Bool :=
  if leIsLt then aluLess signed a b else if signed then a.sle b else a.ule b

end Sys2Proof.Machine
end

