-- ==== Sys2Proof/WellFormed.lean ====
section
/-! DEFINITION. The checks on data that a type does not already make: the field positions of R82 and the image a loader
places (R214). A term of `Instr` needs no check: every field has exactly the width the encoding gives it and every
value of every field is legal (30_encoding.md R94). -/

namespace Sys2Proof

/-- SIGN is a bit of the parameter field IR[11:0] (R81, R86). -/
def FieldPos.signInside (p : FieldPos) : Bool := p.jumpSignBit ≤ 11

/-- OFFSET's ten bits lie in the parameter field (R81, R86). -/
def FieldPos.offsetInside (p : FieldPos) : Bool := p.jumpOffLo + 10 ≤ 12

/-- SIGN is no bit of OFFSET (R86). -/
def FieldPos.jumpDisjoint (p : FieldPos) : Bool :=
  p.jumpSignBit < p.jumpOffLo || p.jumpOffLo + 10 ≤ p.jumpSignBit

/-- SR2 of the register form of ADD, SUB, MUL, DIV lies in the slot IR[4:0] (R87). -/
def FieldPos.aluSr2Inside (p : FieldPos) : Bool := p.aluSr2Lo + 3 ≤ 5

/-- SR2 of the register form of EQ, LT, LE lies in the slot IR[7:0] (R88). -/
def FieldPos.cmpSr2Inside (p : FieldPos) : Bool := p.cmpSr2Lo + 3 ≤ 8

/-- Positions under which no two fields of one instruction overlap and every field lies in its slot (R82). -/
def FieldPos.wellFormed (p : FieldPos) : Bool :=
  p.signInside && p.offsetInside && p.jumpDisjoint && p.aluSr2Inside && p.cmpSr2Inside

/-- An image a loader can place: a header word at least, and at most 65536 words (70_reset_and_hazards.md R214). -/
def imageFits (image : List Word) : Bool := 1 ≤ image.length && image.length ≤ 65536

end Sys2Proof
end

