-- ==== Sys2Proof/Decode.lean ====
section
/-! DEFINITION. The decoder, total on the 65536 words (30_encoding.md R94), and after it the encoder, both from the
formats R83 to R88 and the map R93, and both taking the positions of R82 as an argument so that they agree whatever
the positions are (R108). The one word class that is no instruction, opcode 0xF, decodes to the constructor
`unassigned`: the spec gives it an effect, the UnknownOpcode fault (R95, R132), so nothing is refused here. -/

namespace Sys2Proof

/-- The `len` bits of `w` from bit `lo` up: `w[lo+len-1 : lo]` (00_scope.md R7). -/
def field (w : Word) (lo len : Nat) : BitVec len := w.extractLsb' lo len

/-- The value `v` with its least significant bit at bit `lo` of a word of zeros (R99). -/
def place {len : Nat} (v : BitVec len) (lo : Nat) : Word := v.setWidth 16 <<< lo

/-- The register a 3-bit index selects (10_state.md R21, 30_encoding.md R89). -/
def Reg.ofBits (b : BitVec 3) : Reg :=
  match b.toNat with
  | 0 => .r0
  | 1 => .r1
  | 2 => .r2
  | 3 => .r3
  | 4 => .r4
  | 5 => .r5
  | 6 => .r6
  | _ => .r7

/-- The index of a register (R21). -/
def Reg.toBits : Reg → BitVec 3
  | .r0 => 0#3
  | .r1 => 1#3
  | .r2 => 2#3
  | .r3 => 3#3
  | .r4 => 4#3
  | .r5 => 5#3
  | .r6 => 6#3
  | .r7 => 7#3

/-- The opcode map (R93). -/
def Op.ofCode (c : BitVec 4) : Op :=
  match c.toNat with
  | 0x0 => .halt
  | 0x1 => .loadc
  | 0x2 => .move
  | 0x3 => .loadm
  | 0x4 => .storem
  | 0x5 => .jump
  | 0x6 => .add
  | 0x7 => .sub
  | 0x8 => .mul
  | 0x9 => .div
  | 0xA => .not
  | 0xB => .eq
  | 0xC => .lt
  | 0xD => .le
  | 0xE => .dbg
  | _ => .unassigned

/-- The opcode map, read the other way (R93). -/
def Op.code : Op → BitVec 4
  | .halt => 0x0#4
  | .loadc => 0x1#4
  | .move => 0x2#4
  | .loadm => 0x3#4
  | .storem => 0x4#4
  | .jump => 0x5#4
  | .add => 0x6#4
  | .sub => 0x7#4
  | .mul => 0x8#4
  | .div => 0x9#4
  | .not => 0xA#4
  | .eq => 0xB#4
  | .lt => 0xC#4
  | .le => 0xD#4
  | .dbg => 0xE#4
  | .unassigned => 0xF#4

/-- IR[15:12], which alone selects the instruction (R81, 40_execution_cycle.md R113). -/
def opcodeOf (w : Word) : Op := Op.ofCode (field w 12 4)

/-- The register named by the 3-bit field at bit `lo`. -/
def regAt (w : Word) (lo : Nat) : Reg := Reg.ofBits (field w lo 3)

/-- IMM_FLAG is IR[8] in formats A and C; 1 selects the immediate form (R92). -/
def immFlag (w : Word) : Bool := w.getLsbD 8

/-- Format A (R87): the immediate form with IMM5 = IR[4:0], the register form with SR2 at `ALU_SR2_LO`. -/
def decodeAlu (p : FieldPos) (w : Word) (register : Reg → Reg → Reg → Instr) (immediate : Reg → Reg → BitVec 5 → Instr) : Instr :=
  if immFlag w then immediate (regAt w 9) (regAt w 5) (field w 0 5)
  else register (regAt w 9) (regAt w 5) (regAt w p.aluSr2Lo)

/-- Format C (R88): the immediate form with IMM8 = IR[7:0], the register form with SR2 at `CMP_SR2_LO`. -/
def decodeCmp (p : FieldPos) (w : Word) (register : Reg → Reg → Instr) (immediate : Reg → BitVec 8 → Instr) : Instr :=
  if immFlag w then immediate (regAt w 9) (field w 0 8)
  else register (regAt w 9) (regAt w p.cmpSr2Lo)

/-- The decoder for given field positions: the opcode chooses the arm, the arm extracts its fields (R94, R113). -/
def decodeWith (p : FieldPos) (w : Word) : Instr :=
  match opcodeOf w with
  | .halt => .halt
  | .loadc => .loadc (regAt w 9) (field w 0 9)
  | .move => .move (regAt w 9) (regAt w 6)
  | .loadm => .loadm (regAt w 9) (field w 0 9)
  | .storem => .storem (regAt w 9) (field w 0 9)
  | .jump => .jump (field w p.jumpSignBit 1) (field w p.jumpOffLo 10)
  | .add => decodeAlu p w .addReg .addImm
  | .sub => decodeAlu p w .subReg .subImm
  | .mul => decodeAlu p w .mulReg .mulImm
  | .div => decodeAlu p w .divReg .divImm
  | .not => .not (regAt w 9) (regAt w 6)
  | .eq => decodeCmp p w .eqReg .eqImm
  | .lt => decodeCmp p w .ltReg .ltImm
  | .le => decodeCmp p w .leReg .leImm
  | .dbg => .dbg
  | .unassigned => .unassigned

/-- An opcode at bits 15:12. -/
def placeOp (o : Op) : Word := place o.code 12

/-- A register's index at bit `lo`. -/
def placeReg (r : Reg) (lo : Nat) : Word := place r.toBits lo

/-- Format A, register form: IMM_FLAG = 0, the unused bits 0 (R87, R96). -/
def encodeAluReg (p : FieldPos) (o : Op) (dr sr1 sr2 : Reg) : Word :=
  placeOp o ||| placeReg dr 9 ||| placeReg sr1 5 ||| placeReg sr2 p.aluSr2Lo

/-- Format A, immediate form: IMM_FLAG = 1 (R87). -/
def encodeAluImm (o : Op) (dr sr1 : Reg) (imm5 : BitVec 5) : Word :=
  placeOp o ||| placeReg dr 9 ||| place 1#1 8 ||| placeReg sr1 5 ||| place imm5 0

/-- Format C, register form: IMM_FLAG = 0, the unused bits 0 (R88, R96). -/
def encodeCmpReg (p : FieldPos) (o : Op) (lhs sr2 : Reg) : Word :=
  placeOp o ||| placeReg lhs 9 ||| placeReg sr2 p.cmpSr2Lo

/-- Format C, immediate form: IMM_FLAG = 1 (R88). -/
def encodeCmpImm (o : Op) (lhs : Reg) (imm8 : BitVec 8) : Word :=
  placeOp o ||| placeReg lhs 9 ||| place 1#1 8 ||| place imm8 0

/-- The encoder for given field positions: the fields packed where R83 to R88 place them, the opcode in bits 15:12,
zeros in the unused bits (R99). -/
def encodeWith (p : FieldPos) : Instr → Word
  | .halt => placeOp .halt
  | .loadc reg const9 => placeOp .loadc ||| placeReg reg 9 ||| place const9 0
  | .move src dst => placeOp .move ||| placeReg src 9 ||| placeReg dst 6
  | .loadm reg offset9 => placeOp .loadm ||| placeReg reg 9 ||| place offset9 0
  | .storem reg offset9 => placeOp .storem ||| placeReg reg 9 ||| place offset9 0
  | .jump sign offset => placeOp .jump ||| place sign p.jumpSignBit ||| place offset p.jumpOffLo
  | .addReg dr sr1 sr2 => encodeAluReg p .add dr sr1 sr2
  | .addImm dr sr1 imm5 => encodeAluImm .add dr sr1 imm5
  | .subReg dr sr1 sr2 => encodeAluReg p .sub dr sr1 sr2
  | .subImm dr sr1 imm5 => encodeAluImm .sub dr sr1 imm5
  | .mulReg dr sr1 sr2 => encodeAluReg p .mul dr sr1 sr2
  | .mulImm dr sr1 imm5 => encodeAluImm .mul dr sr1 imm5
  | .divReg dr sr1 sr2 => encodeAluReg p .div dr sr1 sr2
  | .divImm dr sr1 imm5 => encodeAluImm .div dr sr1 imm5
  | .not dr sr => placeOp .not ||| placeReg dr 9 ||| placeReg sr 6
  | .eqReg lhs sr2 => encodeCmpReg p .eq lhs sr2
  | .eqImm lhs imm8 => encodeCmpImm .eq lhs imm8
  | .ltReg lhs sr2 => encodeCmpReg p .lt lhs sr2
  | .ltImm lhs imm8 => encodeCmpImm .lt lhs imm8
  | .leReg lhs sr2 => encodeCmpReg p .le lhs sr2
  | .leImm lhs imm8 => encodeCmpImm .le lhs imm8
  | .dbg => placeOp .dbg
  | .unassigned => placeOp .unassigned

/-- The bits of `w` that its instruction uses: the opcode and the fields of its format; the others are the unused bits
of R96 ("unused_bits" of spec/opcode_table.json). -/
def usedBitsWith (p : FieldPos) (w : Word) : Word :=
  match opcodeOf w with
  | .halt => 0xF000#16
  | .loadc => 0xFFFF#16
  | .move => 0xFFC0#16
  | .loadm => 0xFFFF#16
  | .storem => 0xFFFF#16
  | .jump => 0xF000#16 ||| place (BitVec.allOnes 1) p.jumpSignBit ||| place (BitVec.allOnes 10) p.jumpOffLo
  | .add => if immFlag w then 0xFFFF#16 else 0xFFE0#16 ||| place (BitVec.allOnes 3) p.aluSr2Lo
  | .sub => if immFlag w then 0xFFFF#16 else 0xFFE0#16 ||| place (BitVec.allOnes 3) p.aluSr2Lo
  | .mul => if immFlag w then 0xFFFF#16 else 0xFFE0#16 ||| place (BitVec.allOnes 3) p.aluSr2Lo
  | .div => if immFlag w then 0xFFFF#16 else 0xFFE0#16 ||| place (BitVec.allOnes 3) p.aluSr2Lo
  | .not => 0xFFC0#16
  | .eq => if immFlag w then 0xFFFF#16 else 0xFF00#16 ||| place (BitVec.allOnes 3) p.cmpSr2Lo
  | .lt => if immFlag w then 0xFFFF#16 else 0xFF00#16 ||| place (BitVec.allOnes 3) p.cmpSr2Lo
  | .le => if immFlag w then 0xFFFF#16 else 0xFF00#16 ||| place (BitVec.allOnes 3) p.cmpSr2Lo
  | .dbg => 0xF000#16
  | .unassigned => 0xF000#16

/-- The positions of this hardware: left-packed (R82, D3). DEDUCED, unsafe (log entry 6): the spec's own decision,
which another reading of the source could replace. -/
def fieldPos : FieldPos := { jumpSignBit := 11, jumpOffLo := 1, aluSr2Lo := 2, cmpSr2Lo := 5 }

/-- The decoder of this hardware. -/
def decode (w : Word) : Instr := decodeWith fieldPos w

/-- The encoder that agrees with it (R108). -/
def encode (i : Instr) : Word := encodeWith fieldPos i

/-- The used bits at this hardware's positions. -/
def usedBits (w : Word) : Word := usedBitsWith fieldPos w

/-- What the decoder reads from an instruction whose `nbits` table bits are `w`: one word, the bits above `nbits`
zero. The decoder refuses no word (R94), so the answer is always an instruction. -/
def decodeTableWord (nbits w : Nat) : Option Instr := some (decode (BitVec.ofNat 16 (w % 2 ^ nbits)))

end Sys2Proof
end

