-- ==== Sys2Proof/Machine/Params.lean ====
section
/-! DEFINITION. The values of the parameters of 00_scope.md R6 that a step takes: the spec's defaults, which are this
hardware's behaviour. -/

namespace Sys2Proof.Machine

/-- This hardware: STOREM ignores its offset (D16; log entry 9), LT is unsigned (D7; log entry 7), LE is LT (D17; log
entry 8), no instruction writes COND (D9; log entry 10). The field positions are D3's (log entry 6), the patterns of
COND the LC-3's (R31, D10: PRESUMED, log entry 11). -/
def params : Params where
  pos := fieldPos
  storemUsesOffset := false
  ltSigned := false
  leIsLt := true
  flagWriters := []
  condEnc := { positive := 0x0001#16, zero := 0x0002#16, negative := 0x0004#16 }

end Sys2Proof.Machine
end

