-- ==== Sys2Proof/Machine/Flags.lean ====
section
/-! DEFINITION. The condition-flags register's update (10_state.md R29, 44_alu.md R162). No instruction reads COND. -/

namespace Sys2Proof.Machine

/-- `flags(v)`: the class of a 16-bit result, by zero and by bit 15 (R29). -/
def flags (v : Word) : Cond :=
  if v = 0#16 then .zero else if v.msb then .negative else .positive

/-- COND after an instruction of opcode `o` wrote the value `v` to a general register, `c` being COND before: the
class of `v` if `o` is one of the flag writers, else unchanged (R29). -/
def condAfter (writers : List Op) (o : Op) (v : Word) (c : Cond) : Cond :=
  if writers.contains o then flags v else c

/-- The pattern of a value of COND under an encoding (R31). -/
def condPattern (enc : CondEnc) : Cond → Word
  | .positive => enc.positive
  | .zero => enc.zero
  | .negative => enc.negative

end Sys2Proof.Machine
end

