-- ==== Sys2Proof/Machine/Operands.lean ====
section
/-! DEFINITION. The operand forms (00_scope.md R9, 30_encoding.md R89 to R92): a register, a sign-extended field, the
zero-extended JUMP magnitude. -/

namespace Sys2Proof.Machine

/-- `sext_b(v)` as R9 gives it: `v` when its top bit is 0, else `v` with bits 15 down to `b` set. -/
def sext {b : Nat} (v : BitVec b) : Word :=
  if v.msb then v.setWidth 16 ||| (0xFFFF#16 <<< b) else v.setWidth 16

/-- `zext(v)`: the field's value as a word; used for the JUMP magnitude only (R9, R91). -/
def zext {b : Nat} (v : BitVec b) : Word := v.setWidth 16

/-- `x[i]`: a register operand (R89). -/
def State.reg (s : State) (r : Reg) : Word := s.regs.get r

end Sys2Proof.Machine
end

