-- ==== Sys2Proof/Machine/Ops.lean ====
section
/-! DEFINITION. The named operations over registers, memory and the machine's control state: the field updates, the
address paths of the memory interface multiplexer, the fetch, the register write, the debug emission, the halt, the
fault entry, the skip, and the reset sequence. There is no return from a fault (60_exceptions.md R188): FAULTED and
HALTED are left only by the reset sequence, which stands at the end. -/

namespace Sys2Proof.Machine

/-- `x[i] <- v` (00_scope.md R10). -/
def State.setReg (s : State) (r : Reg) (v : Word) : State := { s with regs := s.regs.set r v }

/-- `pc <- v` (R10). -/
def State.setPc (s : State) (v : Word) : State := { s with pc := v }

/-- COND becomes `c` (10_state.md R29). -/
def State.setCond (s : State) (c : Cond) : State := { s with cond := c }

/-- `run <- r` (10_state.md R34). -/
def State.setRun (s : State) (r : RunState) : State := { s with run := r }

/-- The fetched word is latched (10_state.md R36). -/
def State.setIr (s : State) (w : Word) : State := { s with ir := w }

/-- The memory becomes `m`. -/
def State.setMem (s : State) (m : Memory) : State := { s with mem := m }

/-- `MemRead(a)` (20_memory.md R52). -/
def State.memRead (s : State) (a : Addr) : Word := Memory.read s.mem a

/-- `MemWrite(a, v)` (R52). -/
def State.memWrite (s : State) (a : Addr) (v : Word) : State := s.setMem (Memory.write s.mem a v)

/-- FETCH path (R55). -/
def fetchAddr (s : State) : Addr := s.pc

/-- POOL path, `off` already sign-extended (R53, R56): it depends on neither MAR nor PC. -/
def poolAddr (off : Word) : Addr := off + 1#16

/-- MAPPED-READ path (R53, R57). -/
def mappedRdAddr (s : State) (off : Word) : Addr := s.mar + off

/-- MAPPED-WRITE path for either value of STOREM_USES_OFFSET (R58, C2): this hardware's is false, MAR alone. -/
def mappedWrAddr (usesOffset : Bool) (s : State) (off : Word) : Addr :=
  if usesOffset then s.mar + off else s.mar

/-- RESET path (R59). -/
def resetAddr : Addr := 0#16

/-- The fetch and the increment of 40_execution_cycle.md R110 to R112: IR is the word at `pc`, and `pc` is one more,
modulo 65536, before the opcode is examined. -/
def State.fetch (s : State) : State := (s.setIr (s.memRead (fetchAddr s))).setPc (s.pc + 1#16)

/-- An instruction of opcode `o` writes its result `v` to the register `d`, and COND if `o` is one of the flag writers of
`p` (10_state.md R22, R29). -/
def State.writeResult (s : State) (p : Params) (o : Op) (d : Reg) (v : Word) : State :=
  (s.setReg d v).setCond (condAfter p.flagWriters o v s.cond)

/-- The word the host reads in the register COND (R30, R31). -/
def State.condWord (s : State) (p : Params) : Word := condPattern p.condEnc s.cond

/-- `DbgEmit` of the record `(pc, x[0], ..., x[7])` (41_system.md R131): appended, so the stream is in order of
execution (10_state.md R38). -/
def State.dbgEmit (s : State) : State := { s with dbg := s.dbg ++ [{ pc := s.pc, x := s.regs }] }

/-- `halt`: `run` alone changes (41_system.md R130). -/
def State.halt (s : State) : State := s.setRun .halted

/-- Fault entry, `raise F(IR)` (60_exceptions.md R185): the record and `run`, and nothing else. `pc` already holds
`(a + 1) mod 65536` (40_execution_cycle.md R112), so the address `a` of the faulting word is `pc - 1` (log entry 13). -/
def State.raise (s : State) (cause : FaultCause) : State :=
  { s with faultCause := cause, faultIr := s.ir, faultPc := s.pc - 1#16, run := .faulted }

/-- The skip of a compare (45_compare.md R174): `pc` moves past the next word when the comparison is false. -/
def State.skipUnless (s : State) (holds : Bool) : State := if holds then s else s.setPc (s.pc + 1#16)

/-- The reset sequence (70_reset_and_hazards.md R211) with the strap MAR_INIT, from any state: general registers and
memory are not written by it. -/
def State.resetSequence (s : State) (marInit : Word) : State :=
  { s with
    cond := .zero
    mar := marInit
    pc := s.memRead resetAddr
    run := .running
    faultCause := .none
    faultIr := 0#16
    faultPc := 0#16
    dbg := []
    ir := 0#16 }

/-- The code of a cause in the fault_cause register (60_exceptions.md R184). -/
def FaultCause.code : FaultCause → Word
  | .none => 0#16
  | .unknownOpcode => 1#16
  | .divisionByZero => 2#16

/-- "The offending opcode": `fault_ir[15:12]` (10_state.md R35). -/
def State.offendingOpcode (s : State) : BitVec 4 := field s.faultIr 12 4

end Sys2Proof.Machine
end

