-- ==== Sys2Proof/Machine/Arithmetic.lean ====
section
/-! DEFINITION. ADD, SUB, MUL, DIV, NOT (44_alu.md). The second operand is a register or the sign-extended IMM5
(R156); the first is the left operand. -/

namespace Sys2Proof.Machine

/-- `x[DR] <- f(x[SR1], B)` for the operations that always have a result. -/
def arith (p : Params) (o : Op) (f : Word → Word → Word) (dr sr1 : Reg) (b : Word) (s : State) : Result :=
  .next (s.writeResult p o dr (f (s.reg sr1) b))

/-- `x[DR] <- floor(u(x[SR1]) / u(B))`, or the DivisionByZero fault when B is 0 (R160, 60_exceptions.md R182). -/
def divide (p : Params) (dr sr1 : Reg) (b : Word) (s : State) : Result :=
  match aluDivu (s.reg sr1) b with
  | some q => .next (s.writeResult p .div dr q)
  | none => .next (s.raise .divisionByZero)

/-- ADD, register form (R157), for any values of the parameters. -/
def execAddRegWith (p : Params) (dr sr1 sr2 : Reg) (s : State) : Result :=
  arith p .add aluAdd dr sr1 (s.reg sr2) s

/-- ADD, register form, on this hardware (R157). -/
def execAddReg (dr sr1 sr2 : Reg) (s : State) : Result := execAddRegWith params dr sr1 sr2 s

/-- ADD, immediate form (R157), for any values of the parameters. -/
def execAddImmWith (p : Params) (dr sr1 : Reg) (imm5 : BitVec 5) (s : State) : Result :=
  arith p .add aluAdd dr sr1 (sext imm5) s

/-- ADD, immediate form, on this hardware (R157). -/
def execAddImm (dr sr1 : Reg) (imm5 : BitVec 5) (s : State) : Result := execAddImmWith params dr sr1 imm5 s

/-- SUB, register form (R158), for any values of the parameters. -/
def execSubRegWith (p : Params) (dr sr1 sr2 : Reg) (s : State) : Result :=
  arith p .sub aluSub dr sr1 (s.reg sr2) s

/-- SUB, register form, on this hardware (R158). -/
def execSubReg (dr sr1 sr2 : Reg) (s : State) : Result := execSubRegWith params dr sr1 sr2 s

/-- SUB, immediate form (R158), for any values of the parameters. -/
def execSubImmWith (p : Params) (dr sr1 : Reg) (imm5 : BitVec 5) (s : State) : Result :=
  arith p .sub aluSub dr sr1 (sext imm5) s

/-- SUB, immediate form, on this hardware (R158). -/
def execSubImm (dr sr1 : Reg) (imm5 : BitVec 5) (s : State) : Result := execSubImmWith params dr sr1 imm5 s

/-- MUL, register form (R159), for any values of the parameters. -/
def execMulRegWith (p : Params) (dr sr1 sr2 : Reg) (s : State) : Result :=
  arith p .mul aluMul dr sr1 (s.reg sr2) s

/-- MUL, register form, on this hardware (R159). -/
def execMulReg (dr sr1 sr2 : Reg) (s : State) : Result := execMulRegWith params dr sr1 sr2 s

/-- MUL, immediate form (R159), for any values of the parameters. -/
def execMulImmWith (p : Params) (dr sr1 : Reg) (imm5 : BitVec 5) (s : State) : Result :=
  arith p .mul aluMul dr sr1 (sext imm5) s

/-- MUL, immediate form, on this hardware (R159). -/
def execMulImm (dr sr1 : Reg) (imm5 : BitVec 5) (s : State) : Result := execMulImmWith params dr sr1 imm5 s

/-- DIV, register form (R160), for any values of the parameters. -/
def execDivRegWith (p : Params) (dr sr1 sr2 : Reg) (s : State) : Result :=
  divide p dr sr1 (s.reg sr2) s

/-- DIV, register form, on this hardware (R160). -/
def execDivReg (dr sr1 sr2 : Reg) (s : State) : Result := execDivRegWith params dr sr1 sr2 s

/-- DIV, immediate form (R160), for any values of the parameters. -/
def execDivImmWith (p : Params) (dr sr1 : Reg) (imm5 : BitVec 5) (s : State) : Result :=
  divide p dr sr1 (sext imm5) s

/-- DIV, immediate form, on this hardware (R160). -/
def execDivImm (dr sr1 : Reg) (imm5 : BitVec 5) (s : State) : Result := execDivImmWith params dr sr1 imm5 s

/-- NOT (R161), for any values of the parameters. -/
def execNotWith (p : Params) (dr sr : Reg) (s : State) : Result :=
  .next (s.writeResult p .not dr (aluComplement (s.reg sr)))

/-- NOT, on this hardware (R161). -/
def execNot (dr sr : Reg) (s : State) : Result := execNotWith params dr sr s

end Sys2Proof.Machine
end

