-- ==== Sys2Proof/Machine/Compare.lean ====
section
/-! DEFINITION. EQ, LT, LE: compare and skip (45_compare.md). `x[R1]` is the left operand; the second is a register or
the sign-extended IMM8 (R170). -/

namespace Sys2Proof.Machine

/-- EQ's whole effect for the second operand `b` (R171). -/
def compareEq (lhs : Reg) (b : Word) (s : State) : Result := .next (s.skipUnless (aluEq (s.reg lhs) b))

/-- LT's whole effect, under either reading (R172). -/
def compareLt (p : Params) (lhs : Reg) (b : Word) (s : State) : Result :=
  .next (s.skipUnless (aluLess p.ltSigned (s.reg lhs) b))

/-- LE's whole effect, under any reading (R173). -/
def compareLe (p : Params) (lhs : Reg) (b : Word) (s : State) : Result :=
  .next (s.skipUnless (aluLessEq p.leIsLt p.ltSigned (s.reg lhs) b))

/-- EQ, register form (R171). -/
def execEqReg (lhs sr2 : Reg) (s : State) : Result := compareEq lhs (s.reg sr2) s

/-- EQ, immediate form (R171). -/
def execEqImm (lhs : Reg) (imm8 : BitVec 8) (s : State) : Result := compareEq lhs (sext imm8) s

/-- LT, register form (R172), for any values of the parameters. -/
def execLtRegWith (p : Params) (lhs sr2 : Reg) (s : State) : Result :=
  compareLt p lhs (s.reg sr2) s

/-- LT, register form, on this hardware (R172). -/
def execLtReg (lhs sr2 : Reg) (s : State) : Result := execLtRegWith params lhs sr2 s

/-- LT, immediate form (R172), for any values of the parameters. -/
def execLtImmWith (p : Params) (lhs : Reg) (imm8 : BitVec 8) (s : State) : Result :=
  compareLt p lhs (sext imm8) s

/-- LT, immediate form, on this hardware (R172). -/
def execLtImm (lhs : Reg) (imm8 : BitVec 8) (s : State) : Result := execLtImmWith params lhs imm8 s

/-- LE, register form (R173), for any values of the parameters. -/
def execLeRegWith (p : Params) (lhs sr2 : Reg) (s : State) : Result :=
  compareLe p lhs (s.reg sr2) s

/-- LE, register form, on this hardware (R173). -/
def execLeReg (lhs sr2 : Reg) (s : State) : Result := execLeRegWith params lhs sr2 s

/-- LE, immediate form (R173), for any values of the parameters. -/
def execLeImmWith (p : Params) (lhs : Reg) (imm8 : BitVec 8) (s : State) : Result :=
  compareLe p lhs (sext imm8) s

/-- LE, immediate form, on this hardware (R173). -/
def execLeImm (lhs : Reg) (imm8 : BitVec 8) (s : State) : Result := execLeImmWith params lhs imm8 s

end Sys2Proof.Machine
end

