-- ==== Sys2Proof/Machine/DataMovement.lean ====
section
/-! DEFINITION. LOADC, MOVE, LOADM, STOREM (42_data_movement.md). -/

namespace Sys2Proof.Machine

/-- LOADC: load from the constant pool (R141), for any values of the parameters. -/
def execLoadcWith (p : Params) (reg : Reg) (const9 : BitVec 9) (s : State) : Result :=
  .next (s.writeResult p .loadc reg (s.memRead (poolAddr (sext const9))))

/-- LOADC, on this hardware (R141). -/
def execLoadc (reg : Reg) (const9 : BitVec 9) (s : State) : Result := execLoadcWith params reg const9 s

/-- MOVE: register to register (R142), for any values of the parameters. -/
def execMoveWith (p : Params) (src dst : Reg) (s : State) : Result :=
  .next (s.writeResult p .move dst (s.reg src))

/-- MOVE, on this hardware (R142). -/
def execMove (src dst : Reg) (s : State) : Result := execMoveWith params src dst s

/-- LOADM: load from the mapped window (R143), for any values of the parameters. -/
def execLoadmWith (p : Params) (reg : Reg) (offset9 : BitVec 9) (s : State) : Result :=
  .next (s.writeResult p .loadm reg (s.memRead (mappedRdAddr s (sext offset9))))

/-- LOADM, on this hardware (R143). -/
def execLoadm (reg : Reg) (offset9 : BitVec 9) (s : State) : Result := execLoadmWith params reg offset9 s

/-- STOREM: store to the mapped window, at MAR (R144), for any values of the parameters. -/
def execStoremWith (p : Params) (reg : Reg) (offset9 : BitVec 9) (s : State) : Result :=
  .next (s.memWrite (mappedWrAddr p.storemUsesOffset s (sext offset9)) (s.reg reg))

/-- STOREM, on this hardware (R144). -/
def execStorem (reg : Reg) (offset9 : BitVec 9) (s : State) : Result := execStoremWith params reg offset9 s

end Sys2Proof.Machine
end

