-- ==== Sys2Proof/Machine/Jump.lean ====
section
/-! DEFINITION. JUMP (43_jump.md). -/

namespace Sys2Proof.Machine

/-- The target from the post-increment PC: the magnitude added for SIGN = 0, subtracted for SIGN = 1 (R91, R150). -/
def jumpTarget (pc : Word) (sign : BitVec 1) (offset : BitVec 10) : Addr :=
  if sign = 0#1 then pc + zext offset else pc - zext offset

/-- JUMP (R150). -/
def execJump (sign : BitVec 1) (offset : BitVec 10) (s : State) : Result :=
  .next (s.setPc (jumpTarget s.pc sign offset))

end Sys2Proof.Machine
end

