-- ==== Sys2Proof/Machine/System.lean ====
section
/-! DEFINITION. HALT, DBG and the unassigned opcode (41_system.md). In every meaning of this model `s` is the state after
the fetch: `s.pc` is the post-increment PC and `s.ir` the instruction word (40_execution_cycle.md R112). -/

namespace Sys2Proof.Machine

/-- HALT: stop execution (R130). -/
def execHalt (s : State) : Result := .next s.halt

/-- DBG: emit PC and R0 to R7 (R131). -/
def execDbg (s : State) : Result := .next s.dbgEmit

/-- Opcode 0xF: `raise UnknownOpcode(IR)` (R132, 60_exceptions.md R181). -/
def execUnassigned (s : State) : Result := .next (s.raise .unknownOpcode)

end Sys2Proof.Machine
end

