-- ==== Sys2Proof/Machine/Dispatch.lean ====
section
/-! DEFINITION. One arm for each constructor of Instr (40_execution_cycle.md R110, R113). -/

namespace Sys2Proof.Machine

def exec (i : Instr) (s : State) : Host.Outcome State Fault Refusal :=
  match i with
  | .halt => Sys2Proof.Machine.execHalt s
  | .loadc reg const9 => Sys2Proof.Machine.execLoadc reg const9 s
  | .move src dst => Sys2Proof.Machine.execMove src dst s
  | .loadm reg offset9 => Sys2Proof.Machine.execLoadm reg offset9 s
  | .storem reg offset9 => Sys2Proof.Machine.execStorem reg offset9 s
  | .jump sign offset => Sys2Proof.Machine.execJump sign offset s
  | .addReg dr sr1 sr2 => Sys2Proof.Machine.execAddReg dr sr1 sr2 s
  | .addImm dr sr1 imm5 => Sys2Proof.Machine.execAddImm dr sr1 imm5 s
  | .subReg dr sr1 sr2 => Sys2Proof.Machine.execSubReg dr sr1 sr2 s
  | .subImm dr sr1 imm5 => Sys2Proof.Machine.execSubImm dr sr1 imm5 s
  | .mulReg dr sr1 sr2 => Sys2Proof.Machine.execMulReg dr sr1 sr2 s
  | .mulImm dr sr1 imm5 => Sys2Proof.Machine.execMulImm dr sr1 imm5 s
  | .divReg dr sr1 sr2 => Sys2Proof.Machine.execDivReg dr sr1 sr2 s
  | .divImm dr sr1 imm5 => Sys2Proof.Machine.execDivImm dr sr1 imm5 s
  | .not dr sr => Sys2Proof.Machine.execNot dr sr s
  | .eqReg lhs sr2 => Sys2Proof.Machine.execEqReg lhs sr2 s
  | .eqImm lhs imm8 => Sys2Proof.Machine.execEqImm lhs imm8 s
  | .ltReg lhs sr2 => Sys2Proof.Machine.execLtReg lhs sr2 s
  | .ltImm lhs imm8 => Sys2Proof.Machine.execLtImm lhs imm8 s
  | .leReg lhs sr2 => Sys2Proof.Machine.execLeReg lhs sr2 s
  | .leImm lhs imm8 => Sys2Proof.Machine.execLeImm lhs imm8 s
  | .dbg => Sys2Proof.Machine.execDbg s
  | .unassigned => Sys2Proof.Machine.execUnassigned s

end Sys2Proof.Machine
end

