-- ==== Sys2Proof/Machine/Step.lean ====
section
/-! DEFINITION. The step function (40_execution_cycle.md R110) and the placing of one instruction for it. -/

namespace Sys2Proof.Machine

/-- One step. RUNNING: fetch, increment, decode, execute (R110). HALTED or FAULTED: no step is taken and no state
changes (R116), so the step answers the same state (log entry 12). -/
def step (s : State) : Host.Outcome State Fault Refusal :=
  if s.run = .running then exec (decode s.fetch.ir) s.fetch else .next s

/-- `s` with the instruction word `w` stored where the next step fetches, and RUNNING, so that the next step runs it
(log entry 14). -/
def State.withFetchWord (s : State) (nbits w : Nat) : State :=
  (s.memWrite (fetchAddr s) (BitVec.ofNat 16 (w % 2 ^ nbits))).setRun .running

end Sys2Proof.Machine
end

