-- ==== Sys2Proof/Machine/Assembler.lean ====
section
/-! DEFINITION. The assembly notation and the image (30_encoding.md R100 to R106, 70_reset_and_hazards.md R214 to R217): a
source text after its lines are split and its operands parsed, the words it denotes, and the start of a run on them.
Splitting text into lines and tokens is the assembler program's, which the scope file leaves out (R4 (2); log entry
16). -/

namespace Sys2Proof.Machine

/-- One non-blank line of the notation. -/
inductive Line where
  /-- `CONST <value>` (R102). -/
  | const (value : Int)
  /-- `START` (R103). -/
  | start
  /-- A mnemonic with its operands (R101). -/
  | instr (op : Op) (operands : List Int)
  deriving DecidableEq, Repr

/-- A register operand, reduced modulo 8 (R101). A leading `-` is reduced like any integer (`-1` names R7): DESIGN CHOICE
(log entry 20), since R101 gives the sign to signed fields only and does not say what such a line denotes. -/
def regOperand (k : Int) : Reg := Reg.ofBits (BitVec.ofInt 3 k)

/-- The line forms of ADD, SUB, MUL, DIV: `dr flag sr1 op2` (R101); a negative flag is reduced too (log entry 20). -/
def aluLine (register : Reg → Reg → Reg → Instr) (immediate : Reg → Reg → BitVec 5 → Instr) : List Int → Option Instr
  | [dr, flag, sr1, op2] =>
    if BitVec.ofInt 1 flag = 0#1 then some (register (regOperand dr) (regOperand sr1) (regOperand op2))
    else some (immediate (regOperand dr) (regOperand sr1) (BitVec.ofInt 5 op2))
  | _ => none

/-- The line forms of EQ, LT, LE: `r1 flag op2` (R101); a negative flag is reduced too (log entry 20). -/
def cmpLine (register : Reg → Reg → Instr) (immediate : Reg → BitVec 8 → Instr) : List Int → Option Instr
  | [lhs, flag, op2] =>
    if BitVec.ofInt 1 flag = 0#1 then some (register (regOperand lhs) (regOperand op2))
    else some (immediate (regOperand lhs) (BitVec.ofInt 8 op2))
  | _ => none

/-- The line forms of LOADC, LOADM, STOREM: `reg offset` (R101). -/
def memLine (make : Reg → BitVec 9 → Instr) : List Int → Option Instr
  | [reg, off] => some (make (regOperand reg) (BitVec.ofInt 9 off))
  | _ => none

/-- The line forms of MOVE and NOT: two registers (R101). -/
def pairLine (make : Reg → Reg → Instr) : List Int → Option Instr
  | [a, b] => some (make (regOperand a) (regOperand b))
  | _ => none

/-- The line form of JUMP: `sign offset` (R101). Both fields are unsigned; a negative operand is reduced modulo 2^width
(`-5` is OFFSET 1019): DESIGN CHOICE (log entry 20), since R101 does not say what such a line denotes. -/
def jumpLine : List Int → Option Instr
  | [sign, off] => some (.jump (BitVec.ofInt 1 sign) (BitVec.ofInt 10 off))
  | _ => none

/-- The line forms of HALT and DBG: no operand (R101). -/
def bareLine (i : Instr) : List Int → Option Instr
  | [] => some i
  | _ :: _ => none

/-- The instruction a line denotes, every operand reduced modulo 2^width of its field (R101). A wrong number of
operands is an error, and opcode 0xF has no mnemonic (R95, R105). -/
def assembleInstr (op : Op) (operands : List Int) : Option Instr :=
  match op with
  | .halt => bareLine .halt operands
  | .loadc => memLine .loadc operands
  | .move => pairLine .move operands
  | .loadm => memLine .loadm operands
  | .storem => memLine .storem operands
  | .jump => jumpLine operands
  | .add => aluLine .addReg .addImm operands
  | .sub => aluLine .subReg .subImm operands
  | .mul => aluLine .mulReg .mulImm operands
  | .div => aluLine .divReg .divImm operands
  | .not => pairLine .not operands
  | .eq => cmpLine .eqReg .eqImm operands
  | .lt => cmpLine .ltReg .ltImm operands
  | .le => cmpLine .leReg .leImm operands
  | .dbg => bareLine .dbg operands
  | .unassigned => none

/-- The lines processed in order over the words emitted so far and the recorded entry index: `CONST v` emits
`v mod 65536`, an instruction line its word, and `START` records (words emitted before it) + 1 (R102, R103). Exactly one
`START` is required (R103), and a line that denotes nothing makes the text no program (R105). The encoder's positions are
an argument, as the decoder's are (R108). -/
def emitLines (p : FieldPos) : List Line → List Word → Option Nat → Option (Nat × List Word)
  | [], out, some entry => some (entry, out)
  | [], _, none => none
  | .const v :: rest, out, entry => emitLines p rest (out ++ [BitVec.ofInt 16 v]) entry
  | .start :: rest, out, none => emitLines p rest out (some (out.length + 1))
  | .start :: _, _, some _ => none
  | .instr op operands :: rest, out, entry =>
    match assembleInstr op operands with
    | some i => emitLines p rest (out ++ [encodeWith p i]) entry
    | none => none

/-- The image of a source text: the header word, then the emitted words (R104), if they fit the memory (R214); for any
positions of the fields (R108). Where START follows 65535 words, the index R103 gives is 65536, which is no `Word`: the
header 0 is a DESIGN CHOICE (log entry 21). -/
def assembleWith (p : FieldPos) (lines : List Line) : Option (List Word) :=
  match emitLines p lines [] none with
  | none => none
  | some (entry, out) =>
    let image := BitVec.ofNat 16 entry :: out
    if imageFits image then some image else none

/-- The image of a source text at this hardware's positions. -/
def assemble (lines : List Line) : Option (List Word) := assembleWith fieldPos lines

/-- The start of a run: the image loaded at address 0 over the memory as it was, MAR_INIT supplied by the host, then the
reset sequence (70_reset_and_hazards.md R218). In the reference configuration `marInit` is the image's length (R216). An
image without a header word or of more than 65536 words starts no run (R214, 91_not_in_source.md N31; log entry 19). -/
def bootImage (gprInit : Regs) (marInit : Word) (memInit : Memory) (image : List Word) : Option State :=
  if imageFits image then some (State.boot gprInit marInit (Memory.load memInit image)) else none

/-- MAR_INIT of the reference configuration: the first word after the image, which is its length (R216). For an image of
exactly 65536 words no word lies after it and its length is no `Word`: the reduction to 0 is a DESIGN CHOICE (log entry 21),
since the spec gives no value there. -/
def referenceMar (image : List Word) : Word := BitVec.ofNat 16 image.length

/-- The two byte orders a host may store an image's words in (IMAGE_BYTE_ORDER, D20); the block never sees bytes (R61). -/
inductive ImageByteOrder where
  | littleEndian | bigEndian
  deriving DecidableEq, Repr

/-- The image a host reads from stored bytes, two a word in the given order (D20). That an odd byte left over is no image is
a DESIGN CHOICE (log entry 19). -/
def imageOfBytes (order : ImageByteOrder) : List (BitVec 8) → Option (List Word)
  | [] => some []
  | [_] => none
  | a :: b :: rest =>
    match imageOfBytes order rest with
    | none => none
    | some words =>
      match order with
      | .littleEndian => some ((b ++ a) :: words)
      | .bigEndian => some ((a ++ b) :: words)

end Sys2Proof.Machine
end

