-- ==== Sys2Proof/Machine/Parametric.lean ====
section
/-! DEFINITION. The machine for ANY values of the parameters of 00_scope.md R6: the field positions, STOREM_USES_OFFSET,
LT_SIGNED, LE_IS_LT, FLAG_WRITERS and COND_ENC are the argument `p`. `exec` and `step` are this machine at `params`, this
hardware's values (`execWith_params` and `stepWith_params` in Sys2Proof/Laws/Parametric.lean). The meanings of HALT, JUMP, EQ, DBG and
the unassigned opcode depend on no parameter. -/

namespace Sys2Proof.Machine

/-- The execution of an instruction (40_execution_cycle.md R114) under the parameters `p`. -/
def execWith (p : Params) (i : Instr) (s : State) : Result :=
  match i with
  | .halt => execHalt s
  | .loadc reg const9 => execLoadcWith p reg const9 s
  | .move src dst => execMoveWith p src dst s
  | .loadm reg offset9 => execLoadmWith p reg offset9 s
  | .storem reg offset9 => execStoremWith p reg offset9 s
  | .jump sign offset => execJump sign offset s
  | .addReg dr sr1 sr2 => execAddRegWith p dr sr1 sr2 s
  | .addImm dr sr1 imm5 => execAddImmWith p dr sr1 imm5 s
  | .subReg dr sr1 sr2 => execSubRegWith p dr sr1 sr2 s
  | .subImm dr sr1 imm5 => execSubImmWith p dr sr1 imm5 s
  | .mulReg dr sr1 sr2 => execMulRegWith p dr sr1 sr2 s
  | .mulImm dr sr1 imm5 => execMulImmWith p dr sr1 imm5 s
  | .divReg dr sr1 sr2 => execDivRegWith p dr sr1 sr2 s
  | .divImm dr sr1 imm5 => execDivImmWith p dr sr1 imm5 s
  | .not dr sr => execNotWith p dr sr s
  | .eqReg lhs sr2 => execEqReg lhs sr2 s
  | .eqImm lhs imm8 => execEqImm lhs imm8 s
  | .ltReg lhs sr2 => execLtRegWith p lhs sr2 s
  | .ltImm lhs imm8 => execLtImmWith p lhs imm8 s
  | .leReg lhs sr2 => execLeRegWith p lhs sr2 s
  | .leImm lhs imm8 => execLeImmWith p lhs imm8 s
  | .dbg => execDbg s
  | .unassigned => execUnassigned s

/-- One step under the parameters `p` (R110, R116). -/
def stepWith (p : Params) (s : State) : Result :=
  if s.run = .running then execWith p (decodeWith p.pos s.fetch.ir) s.fetch else .next s

end Sys2Proof.Machine
end

