-- ==== Sys2Proof/Machine/Port.lean ====
section
/-! DEFINITION. The memory port (00_scope.md R13 (a)): the transactions a step and a reset issue, in order, with the path
each takes (20_memory.md R54 to R60). They are computed from the state by the same address functions the meanings use. -/

namespace Sys2Proof.Machine

/-- The space tag of a transaction (R13, R54); informative, it does not change which cell is accessed (R51). -/
inductive Space where
  | fetch | literal | mapped
  deriving DecidableEq, Repr

/-- The five address paths of the multiplexer (R54). -/
inductive Path where
  | fetch | pool | mappedRead | mappedWrite | reset
  deriving DecidableEq, Repr

/-- The tag each path puts on its transactions (R54). -/
def Path.space : Path → Space
  | .fetch => .fetch
  | .pool => .literal
  | .mappedRead => .mapped
  | .mappedWrite => .mapped
  | .reset => .literal

/-- One transaction at the port (R13). -/
inductive Transaction where
  | read (space : Space) (addr : Addr)
  | write (space : Space) (addr : Addr) (data : Word)
  deriving DecidableEq, Repr

/-- Whether a transaction writes. -/
def Transaction.isWrite : Transaction → Bool
  | .read _ _ => false
  | .write _ _ _ => true

/-- What a transaction does to the memory array (R52). -/
def Transaction.applyTo (m : Memory) : Transaction → Memory
  | .read _ _ => m
  | .write _ a v => Memory.write m a v

/-- The data transaction of an instruction under the parameters `p`, `s` being the state after the fetch (R60). -/
def dataTransactions (p : Params) (i : Instr) (s : State) : List Transaction :=
  match i with
  | .loadc _ const9 => [.read Path.pool.space (poolAddr (sext const9))]
  | .loadm _ offset9 => [.read Path.mappedRead.space (mappedRdAddr s (sext offset9))]
  | .storem reg offset9 => [.write Path.mappedWrite.space (mappedWrAddr p.storemUsesOffset s (sext offset9)) (s.reg reg)]
  | .halt => []
  | .move _ _ => []
  | .jump _ _ => []
  | .addReg _ _ _ => []
  | .addImm _ _ _ => []
  | .subReg _ _ _ => []
  | .subImm _ _ _ => []
  | .mulReg _ _ _ => []
  | .mulImm _ _ _ => []
  | .divReg _ _ _ => []
  | .divImm _ _ _ => []
  | .not _ _ => []
  | .eqReg _ _ => []
  | .eqImm _ _ => []
  | .ltReg _ _ => []
  | .ltImm _ _ => []
  | .leReg _ _ => []
  | .leImm _ _ => []
  | .dbg => []
  | .unassigned => []

/-- The transactions of one step under the parameters `p`, in order: the fetch, then the data transaction (R60,
40_execution_cycle.md R122); none in a terminal state (R116). -/
def stepTransactionsWith (p : Params) (s : State) : List Transaction :=
  if s.run = .running then
    .read Path.fetch.space (fetchAddr s) :: dataTransactions p (decodeWith p.pos s.fetch.ir) s.fetch
  else []

/-- The transactions of one step of this hardware. -/
def stepTransactions (s : State) : List Transaction := stepTransactionsWith params s

/-- The transactions of the reset sequence: one literal read of address 0 (R59, 70_reset_and_hazards.md R211). -/
def resetTransactions : List Transaction := [.read Path.reset.space resetAddr]

end Sys2Proof.Machine
end

