-- ==== Sys2Proof/Machine/Run.lean ====
section
/-! DEFINITION. Runs (40_execution_cycle.md R116, R117) and what the host is told at their end (60_exceptions.md R189). -/

namespace Sys2Proof.Machine

/-- The outcome of a run under fuel. -/
inductive RunOutcome where
  /-- A HALT ended the run (R116). -/
  | halted (s : State)
  /-- A fault ended the run (R116). -/
  | faulted (s : State)
  /-- The fuel ran out first; the run may never end (R117). -/
  | notFinished (s : State)
  /-- A step was refused; no step of this model is. -/
  | refused (r : Refusal)
  deriving DecidableEq, Repr

/-- The run from `s` under fuel: exhaustion is "did not finish", never HALTED (R117). -/
def execute : Nat → State → RunOutcome
  | 0, s =>
    match s.run with
    | .running => .notFinished s
    | .halted => .halted s
    | .faulted => .faulted s
  | fuel + 1, s =>
    match s.run with
    | .halted => .halted s
    | .faulted => .faulted s
    | .running =>
      match step s with
      | .next t => execute fuel t
      | .fault f => nomatch f
      | .refused r => .refused r

/-- What the host reports (60_exceptions.md R189). -/
inductive HostReport where
  /-- "on normal HALT, exits zero". -/
  | exitZero
  /-- A fault: the cause and the offending opcode are reported, the exit is non-zero. -/
  | exitNonZero (cause : FaultCause) (opcode : BitVec 4)
  deriving DecidableEq, Repr

/-- The report at the end of a run; none while the block runs (R189). -/
def State.hostReport (s : State) : Option HostReport :=
  match s.run with
  | .running => none
  | .halted => some .exitZero
  | .faulted => some (.exitNonZero s.faultCause s.offendingOpcode)

end Sys2Proof.Machine
end

