-- ==== Sys2Proof/Safety.lean ====
section
/-! DEFINITION. The terms in which claims about the machine are made: what an instruction leaves alone, what makes a
stopped machine's record true, and what a safe run is. -/

namespace Sys2Proof

open Sys2Proof.Machine

/-- Every word of memory reads as before. -/
def SameMemory (s t : State) : Prop := ∀ a : Addr, t.memRead a = s.memRead a

/-- Every word of memory but the one at `w` reads as before. -/
def SameMemoryBut (w : Addr) (s t : State) : Prop := ∀ a : Addr, a ≠ w → t.memRead a = s.memRead a

/-- Every general register is as before. -/
def SameRegisters (s t : State) : Prop := ∀ r : Reg, t.reg r = s.reg r

/-- Every general register but `d` is as before. -/
def SameRegistersBut (d : Reg) (s t : State) : Prop := ∀ r : Reg, r ≠ d → t.reg r = s.reg r

/-- The fault record (10_state.md R35) is as before. -/
def SameFaultRecord (s t : State) : Prop :=
  t.faultCause = s.faultCause ∧ t.faultIr = s.faultIr ∧ t.faultPc = s.faultPc

/-- COND, MAR, the run state, the fault record, the debug stream and the IR of the step are as before: all that is
neither a general register nor PC nor memory. -/
def SameSpecial (s t : State) : Prop :=
  t.cond = s.cond ∧ t.mar = s.mar ∧ t.run = s.run ∧ SameFaultRecord s t ∧ t.dbg = s.dbg ∧ t.ir = s.ir

/-- The frame of an instruction that writes the general register `d` and nothing else (PC was incremented by the
fetch and does not move further). -/
def WritesOnly (d : Reg) (s t : State) : Prop :=
  SameRegistersBut d s t ∧ t.pc = s.pc ∧ SameSpecial s t ∧ SameMemory s t

/-- The frame of an instruction that writes PC and nothing else. -/
def WritesPcOnly (s t : State) : Prop := SameRegisters s t ∧ SameSpecial s t ∧ SameMemory s t

/-- What a fault's entry leaves alone (60_exceptions.md R185): all but `run` and the fault record. -/
def FaultFrame (s t : State) : Prop :=
  SameRegisters s t ∧ t.pc = s.pc ∧ t.cond = s.cond ∧ t.mar = s.mar ∧ t.dbg = s.dbg ∧ t.ir = s.ir ∧
  SameMemory s t

/-- The second operand of a DIV in state `s`, and none for any other instruction (44_alu.md R156, R160). -/
def divisor (i : Instr) (s : State) : Option Word :=
  match i with
  | .divReg _ _ sr2 => some (s.reg sr2)
  | .divImm _ _ imm5 => some (sext imm5)
  | _ => none

/-- The general register an instruction writes, if it writes one (10_state.md R22). -/
def destination (i : Instr) : Option Reg :=
  match i with
  | .loadc reg _ => some reg
  | .move _ dst => some dst
  | .loadm reg _ => some reg
  | .addReg dr _ _ => some dr
  | .addImm dr _ _ => some dr
  | .subReg dr _ _ => some dr
  | .subImm dr _ _ => some dr
  | .mulReg dr _ _ => some dr
  | .mulImm dr _ _ => some dr
  | .divReg dr _ _ => some dr
  | .divImm dr _ _ => some dr
  | .not dr _ => some dr
  | .halt => none
  | .storem _ _ => none
  | .jump _ _ => none
  | .eqReg _ _ => none
  | .eqImm _ _ => none
  | .ltReg _ _ => none
  | .ltImm _ _ => none
  | .leReg _ _ => none
  | .leImm _ _ => none
  | .dbg => none
  | .unassigned => none

/-- The fault record tells the truth (10_state.md R34, R35; 60_exceptions.md R181 to R186). Unless FAULTED it is clear.
When FAULTED, fault_pc is the address just before PC, fault_ir is the word there, and the cause is the one the word has:
opcode 0xF, or a DIV whose second operand is 0. When HALTED, the word just before PC is a HALT (41_system.md R130). -/
def StopExplained (s : State) : Prop :=
  (s.run ≠ .faulted → s.faultCause = .none ∧ s.faultIr = 0#16 ∧ s.faultPc = 0#16) ∧
  (s.run = .faulted →
    s.pc = s.faultPc + 1#16 ∧ s.memRead s.faultPc = s.faultIr ∧
    (s.faultCause = .unknownOpcode ∧ opcodeOf s.faultIr = .unassigned ∨
     s.faultCause = .divisionByZero ∧ divisor (decode s.faultIr) s = some 0#16)) ∧
  (s.run = .halted → opcodeOf (s.memRead (s.pc - 1#16)) = .halt)

/-- A run of `k` steps that never enters FAULTED. -/
def NeverFaults (k : Nat) (s : State) : Prop :=
  ∀ n ≤ k, ∀ t : State, Host.Core.run Sys2Proof.core n s = .next t → t.run ≠ .faulted

end Sys2Proof
end

