-- ==== Sys2Proof/Certificates/Slice0/Obligations.lean ====
section
/-! DEFINITION. The statements for the provers, from the numbered rules of spec/. In a statement about `exec`, `s` is the
state after the fetch: its PC is the post-increment PC and its `ir` the instruction word (40_execution_cycle.md R112).
No statement is about a program, and none is about the runs from reset alone: `s` is any state, so every value of
GPR_INIT, MEM_INIT and MAR_INIT is covered. -/

open Sys2Proof Sys2Proof.Machine

-- ## Encoding

/-- R82, R99, R108: whatever well-formed field positions are chosen, decoder and encoder agree: no bit of an encoding
is lost, for any instruction and any operand. -/
def Obligations.DecodeEncodeForEveryFieldPosition : Prop :=
  ∀ p : FieldPos, p.wellFormed = true → ∀ i : Instr, decodeWith p (encodeWith p i) = i

/-- R99: packing the operand fields and extracting them again returns the same instruction; the opcode is in bits
15:12; the unused bits are 0; a signed operand `k` in its field's range is packed as `k mod 2^b`. -/
def Obligations.EncodingIsInverseOfDecoding : Prop :=
  (∀ i : Instr,
    decode (encode i) = i ∧ (encode i).extractLsb' 12 4 = i.op.code ∧ encode i &&& ~~~(usedBits (encode i)) = 0#16) ∧
  (∀ make ∈ [Instr.addImm, .subImm, .mulImm, .divImm], ∀ (dr sr1 : Reg) (k : Int), -16 ≤ k ∧ k ≤ 15 →
    ((encode (make dr sr1 (BitVec.ofInt 5 k))).toNat % 2 ^ 5 : Int) = k % 2 ^ 5) ∧
  (∀ make ∈ [Instr.eqImm, .ltImm, .leImm], ∀ (lhs : Reg) (k : Int), -128 ≤ k ∧ k ≤ 127 →
    ((encode (make lhs (BitVec.ofInt 8 k))).toNat % 2 ^ 8 : Int) = k % 2 ^ 8) ∧
  (∀ make ∈ [Instr.loadc, .loadm, .storem], ∀ (reg : Reg) (k : Int), -256 ≤ k ∧ k ≤ 255 →
    ((encode (make reg (BitVec.ofInt 9 k))).toNat % 2 ^ 9 : Int) = k % 2 ^ 9)

/-- S1, R96, R99: for every one of the 65536 words, decoding and encoding again gives the word with its unused bits
cleared and every other bit kept. -/
def Obligations.ReencodingClearsExactlyUnusedBits : Prop :=
  ∀ w : Word, encode (decode w) = w &&& usedBits w

/-- R96: two words that agree on the used bits decode to the same instruction, and the unused bits are those of the
formats: 11:0 of HALT, DBG and the unassigned opcode, 5:0 of MOVE and NOT, 0 of JUMP, 1:0 of the register form of format
A, 4:0 of the register form of format C, none elsewhere. -/
def Obligations.UnusedBitsAreIgnored : Prop :=
  (∀ w v : Word, (w ^^^ v) &&& usedBits w = 0#16 → decode v = decode w) ∧
  (∀ w : Word,
    usedBits w =
      match decode w with
      | .halt | .dbg | .unassigned => 0xF000#16
      | .move _ _ | .not _ _ => 0xFFC0#16
      | .jump _ _ => 0xFFFE#16
      | .addReg _ _ _ | .subReg _ _ _ | .mulReg _ _ _ | .divReg _ _ _ => 0xFFFC#16
      | .eqReg _ _ | .ltReg _ _ | .leReg _ _ => 0xFFE0#16
      | _ => 0xFFFF#16)

/-- R81: the opcode is bits 15:12, and it alone selects the instruction: two words with the same top four bits are the
same instruction, whatever their parameter bits. -/
def Obligations.OpcodeAloneSelectsInstruction : Prop :=
  (∀ w : Word, (decode w).op.code = w.extractLsb' 12 4) ∧
  (∀ (c : BitVec 4) (u v : BitVec 12), (decode (c ++ u)).op = (decode (c ++ v)).op)

/-- Vectors of 95_test_vectors.md section 2.2, words written out from the formats, one or more for every family. -/
def Obligations.SampleWordsDecode : Prop :=
  decode 0x0ABC#16 = .halt ∧
  decode 0x1FFF#16 = .loadc .r7 0x1FF#9 ∧
  decode 0x257F#16 = .move .r2 .r5 ∧
  decode 0x37FE#16 = .loadm .r3 0x1FE#9 ∧
  decode 0x4003#16 = .storem .r0 3#9 ∧
  decode 0x580B#16 = .jump 1#1 5#10 ∧
  decode 0x6223#16 = .addReg .r1 .r1 .r0 ∧
  decode 0x613F#16 = .addImm .r0 .r1 0x1F#5 ∧
  decode 0x9420#16 = .divReg .r2 .r1 .r0 ∧
  decode 0xA87F#16 = .not .r4 .r1 ∧
  decode 0xB25F#16 = .eqReg .r1 .r2 ∧
  decode 0xC105#16 = .ltImm .r0 5#8 ∧
  decode 0xD1FF#16 = .leImm .r0 0xFF#8 ∧
  decode 0xEFFF#16 = .dbg ∧
  decode 0xFABC#16 = .unassigned

/-- R9: `sext_b(v)` is `v` when its top bit is 0 and `v + 65536 - 2^b` when it is 1, so as a two's-complement integer it
lies in `-2^(b-1) .. 2^(b-1)-1`; the source's example is `sext_5(10000) = 0xFFF0`; `zext(v)` is `v`. -/
def Obligations.SignExtensionValue : Prop :=
  (∀ (b : Nat) (v : BitVec b), b = 5 ∨ b = 8 ∨ b = 9 →
    (sext v).toNat = (if v.getLsbD (b - 1) then v.toNat + 65536 - 2 ^ b else v.toNat) ∧
    -(2 ^ (b - 1) : Int) ≤ (sext v).toInt ∧ (sext v).toInt ≤ 2 ^ (b - 1) - 1) ∧
  sext 0b10000#5 = 0xFFF0#16 ∧
  (∀ v : BitVec 10, (zext v).toNat = v.toNat)

-- ## The step

/-- R110 to R113: a step of a RUNNING machine is `exec` of the instruction the word at PC decodes to, in the state whose
IR is that word and whose PC is one more. -/
def Obligations.StepRunsDecodedInstruction : Prop :=
  ∀ s : State, s.run = .running →
    step s = exec (decode (s.memRead s.pc)) { s with ir := s.memRead s.pc, pc := s.pc + 1#16 }

/-- R110, R99: where the word at PC is the encoding of an instruction, whatever its unused bits hold, the step is `exec`
of that instruction. -/
def Obligations.StepRunsEncodedInstruction : Prop :=
  ∀ (s : State) (i : Instr), s.run = .running → s.memRead s.pc &&& usedBits (s.memRead s.pc) = encode i →
    step s = exec i { s with ir := s.memRead s.pc, pc := s.pc + 1#16 }

/-- R114, R180: an instruction and a step always complete, in every state and on every operand: the model's step never
stops with a fault or a refusal of its own (log entry 12: the architectural faults are next states). -/
def Obligations.EveryStepAnswersNext : Prop :=
  (∀ (i : Instr) (s : State), ∃ t : State, exec i s = .next t) ∧ (∀ s : State, ∃ t : State, step s = .next t)

/-- R116: once HALTED or FAULTED, no number of steps changes anything (log entry 12: a step then answers the same
state). -/
def Obligations.StoppedMachineNeverChanges : Prop :=
  ∀ (k : Nat) (s : State), s.run ≠ .running → Host.Core.run Sys2Proof.core k s = .next s

/-- R36 (log entry 5): the IR of an earlier step has no effect on a later one. -/
def Obligations.OldIrHasNoEffect : Prop :=
  ∀ (s : State) (w : Word), s.run = .running → step { s with ir := w } = step s

-- ## Reset

/-- R42: what power-up leaves, for all values of the open parameters. -/
def Obligations.BootLeavesTheResetValues : Prop :=
  ∀ (gprInit : Regs) (marInit : Word) (memInit : Memory),
    let s := State.boot gprInit marInit memInit
    (∀ r : Reg, s.reg r = gprInit.get r) ∧ s.pc = Memory.read memInit 0#16 ∧ s.cond = .zero ∧ s.mar = marInit ∧
    s.mem = memInit ∧ s.run = .running ∧ s.faultCause = .none ∧ s.faultIr = 0#16 ∧ s.faultPc = 0#16 ∧ s.dbg = []

/-- R210, R211: a reset in any run state, with the strap `marInit`: the sequence's writes, registers and memory
kept; it is the power-up of the same registers and memory. -/
def Obligations.ResetSequenceFromAnyState : Prop :=
  ∀ (s : State) (marInit : Word),
    let t := s.resetSequence marInit
    t.cond = .zero ∧ t.mar = marInit ∧ t.pc = s.memRead 0#16 ∧ t.run = .running ∧
    t.faultCause = .none ∧ t.faultIr = 0#16 ∧ t.faultPc = 0#16 ∧ t.dbg = [] ∧
    SameRegisters s t ∧ SameMemory s t ∧ t = State.boot s.regs marInit s.mem

/-- R212: the first step after a reset executes the word at the address the header word holds. -/
def Obligations.FirstStepExecutesAtTheHeader : Prop :=
  ∀ (s : State) (marInit : Word),
    let t := s.resetSequence marInit
    step t =
      exec (decode (s.memRead (s.memRead 0#16)))
        { t with ir := s.memRead (s.memRead 0#16), pc := s.memRead 0#16 + 1#16 }

-- ## Data movement

/-- R141: a word of opcode 1 is LOADC of REG = IR[11:9] and CONST9 = IR[8:0]; it reads the word at
`(sext_9(CONST9) + 1) mod 65536` into REG and changes nothing else. The wrap is the spec's decision D5 (log entry 18); that
COND is as before is its decision D9 (log entry 10). -/
def Obligations.LoadcReadsThePool : Prop :=
  (∀ w : Word, w.extractLsb' 12 4 = 0x1#4 →
    decode w = .loadc (Reg.ofBits (w.extractLsb' 9 3)) (w.extractLsb' 0 9)) ∧
  ∀ (reg : Reg) (const9 : BitVec 9),
    encode (.loadc reg const9) = 0x1000#16 ||| reg.toBits.setWidth 16 <<< 9 ||| const9.setWidth 16 ∧
    ∀ s : State, ∃ t : State, exec (.loadc reg const9) s = .next t ∧
      t.reg reg = s.memRead (BitVec.ofInt 16 (const9.toInt + 1)) ∧ WritesOnly reg s t

/-- R142: a word of opcode 2 is MOVE of src = IR[11:9] and dst = IR[8:6], whatever IR[5:0] holds; it copies the source
to the destination and changes nothing else. That IR[5:0] is ignored is the spec's decision D4 (log entry 18); that COND is
as before is its decision D9 (log entry 10). -/
def Obligations.MoveCopiesARegister : Prop :=
  (∀ w : Word, w.extractLsb' 12 4 = 0x2#4 →
    decode w = .move (Reg.ofBits (w.extractLsb' 9 3)) (Reg.ofBits (w.extractLsb' 6 3))) ∧
  ∀ src dst : Reg,
    encode (.move src dst) = 0x2000#16 ||| src.toBits.setWidth 16 <<< 9 ||| dst.toBits.setWidth 16 <<< 6 ∧
    ∀ s : State, ∃ t : State, exec (.move src dst) s = .next t ∧ t.reg dst = s.reg src ∧ WritesOnly dst s t

/-- R143, R57, D5: LOADM reads the word at `(mar + sext_9(OFFSET9)) mod 65536` into REG and changes nothing else.
That COND is as before is the spec's decision D9 (R29; log entry 10), the wrap of the address its decision D5 (log entry 18). -/
def Obligations.LoadmReadsTheMappedWindow : Prop :=
  ∀ (reg : Reg) (offset9 : BitVec 9),
    encode (.loadm reg offset9) = 0x3000#16 ||| reg.toBits.setWidth 16 <<< 9 ||| offset9.setWidth 16 ∧
    ∀ s : State, ∃ t : State, exec (.loadm reg offset9) s = .next t ∧
      t.reg reg = s.memRead (BitVec.ofInt 16 (s.mar.toNat + offset9.toInt)) ∧ WritesOnly reg s t

/-- R144, R58, D16: STOREM writes REG's value at the address the MAPPED-WRITE path gives, which is MAR whatever the
offset; every other word, every register and every special register keeps its value. -/
def Obligations.StoremWritesAtMar : Prop :=
  ∀ (reg : Reg) (offset9 : BitVec 9),
    encode (.storem reg offset9) = 0x4000#16 ||| reg.toBits.setWidth 16 <<< 9 ||| offset9.setWidth 16 ∧
    ∀ s : State, ∃ t : State, exec (.storem reg offset9) s = .next t ∧
      mappedWrAddr params.storemUsesOffset s (sext offset9) = s.mar ∧
      t.memRead (mappedWrAddr params.storemUsesOffset s (sext offset9)) = s.reg reg ∧
      SameMemoryBut (mappedWrAddr params.storemUsesOffset s (sext offset9)) s t ∧
      SameRegisters s t ∧ t.pc = s.pc ∧ SameSpecial s t

-- ## Jump

/-- R150, D3, D5: JUMP adds (SIGN = 0) or subtracts (SIGN = 1) the magnitude, modulo 65536, from the post-increment PC,
and changes nothing else. -/
def Obligations.JumpMovesPc : Prop :=
  ∀ (sign : BitVec 1) (offset : BitVec 10),
    encode (.jump sign offset) = 0x5000#16 ||| sign.setWidth 16 <<< 11 ||| offset.setWidth 16 <<< 1 ∧
    ∀ s : State, ∃ t : State, exec (.jump sign offset) s = .next t ∧ WritesPcOnly s t ∧
      (t.pc.toNat : Int) =
        (if sign = 0#1 then (s.pc.toNat : Int) + offset.toNat else (s.pc.toNat : Int) - offset.toNat) % 65536

/-- R152: from a JUMP at address `a`, a target at most 1023 words from `a + 1` is reached by SIGN = 0 and the distance
when it does not lie below `a + 1`, and by SIGN = 1 and the distance otherwise. -/
def Obligations.JumpOperandReachesItsTarget : Prop :=
  ∀ (s : State) (target : Word), s.run = .running → s.pc.toNat + 1 < 65536 →
    (s.pc.toNat + 1 ≤ target.toNat → target.toNat - (s.pc.toNat + 1) ≤ 1023 →
      decode (s.memRead s.pc) = .jump 0#1 (BitVec.ofNat 10 (target.toNat - (s.pc.toNat + 1))) →
      ∃ t : State, step s = .next t ∧ t.pc = target) ∧
    (target.toNat < s.pc.toNat + 1 → s.pc.toNat + 1 - target.toNat ≤ 1023 →
      decode (s.memRead s.pc) = .jump 1#1 (BitVec.ofNat 10 (s.pc.toNat + 1 - target.toNat)) →
      ∃ t : State, step s = .next t ∧ t.pc = target)

-- ## Arithmetic

/-- R157: ADD, both forms.
That COND is as before is the spec's decision D9 (R29, R162; log entry 10). The place of
SR2 is its decision D3 (log entry 6). -/
def Obligations.AddIsTheSumModulo65536 : Prop :=
  (∀ dr sr1 sr2 : Reg,
    encode (.addReg dr sr1 sr2) =
      0x6000#16 ||| dr.toBits.setWidth 16 <<< 9 ||| sr1.toBits.setWidth 16 <<< 5 ||| sr2.toBits.setWidth 16 <<< 2 ∧
    ∀ s : State, ∃ t : State, exec (.addReg dr sr1 sr2) s = .next t ∧
      (t.reg dr).toNat = ((s.reg sr1).toNat + (s.reg sr2).toNat) % 65536 ∧ WritesOnly dr s t) ∧
  (∀ (dr sr1 : Reg) (imm5 : BitVec 5),
    encode (.addImm dr sr1 imm5) =
      0x6100#16 ||| dr.toBits.setWidth 16 <<< 9 ||| sr1.toBits.setWidth 16 <<< 5 ||| imm5.setWidth 16 ∧
    ∀ s : State, ∃ t : State, exec (.addImm dr sr1 imm5) s = .next t ∧
      (t.reg dr).toNat = ((s.reg sr1).toNat + (BitVec.ofInt 16 imm5.toInt).toNat) % 65536 ∧ WritesOnly dr s t)

/-- R158: SUB, both forms; the second operand is subtracted from the first.
That COND is as before is the spec's decision D9 (R29, R162; log entry 10). The place of
SR2 is its decision D3 (log entry 6). -/
def Obligations.SubIsTheDifferenceModulo65536 : Prop :=
  (∀ dr sr1 sr2 : Reg,
    encode (.subReg dr sr1 sr2) =
      0x7000#16 ||| dr.toBits.setWidth 16 <<< 9 ||| sr1.toBits.setWidth 16 <<< 5 ||| sr2.toBits.setWidth 16 <<< 2 ∧
    ∀ s : State, ∃ t : State, exec (.subReg dr sr1 sr2) s = .next t ∧
      ((t.reg dr).toNat : Int) = ((s.reg sr1).toNat - (s.reg sr2).toNat : Int) % 65536 ∧ WritesOnly dr s t) ∧
  (∀ (dr sr1 : Reg) (imm5 : BitVec 5),
    encode (.subImm dr sr1 imm5) =
      0x7100#16 ||| dr.toBits.setWidth 16 <<< 9 ||| sr1.toBits.setWidth 16 <<< 5 ||| imm5.setWidth 16 ∧
    ∀ s : State, ∃ t : State, exec (.subImm dr sr1 imm5) s = .next t ∧
      ((t.reg dr).toNat : Int) = ((s.reg sr1).toNat - (BitVec.ofInt 16 imm5.toInt).toNat : Int) % 65536 ∧
      WritesOnly dr s t)

/-- R159: MUL, both forms; the low 16 bits of the product.
That COND is as before is the spec's decision D9 (R29, R162; log entry 10). The place of
SR2 is its decision D3 (log entry 6). -/
def Obligations.MulIsTheProductModulo65536 : Prop :=
  (∀ dr sr1 sr2 : Reg,
    encode (.mulReg dr sr1 sr2) =
      0x8000#16 ||| dr.toBits.setWidth 16 <<< 9 ||| sr1.toBits.setWidth 16 <<< 5 ||| sr2.toBits.setWidth 16 <<< 2 ∧
    ∀ s : State, ∃ t : State, exec (.mulReg dr sr1 sr2) s = .next t ∧
      (t.reg dr).toNat = ((s.reg sr1).toNat * (s.reg sr2).toNat) % 65536 ∧ WritesOnly dr s t) ∧
  (∀ (dr sr1 : Reg) (imm5 : BitVec 5),
    encode (.mulImm dr sr1 imm5) =
      0x8100#16 ||| dr.toBits.setWidth 16 <<< 9 ||| sr1.toBits.setWidth 16 <<< 5 ||| imm5.setWidth 16 ∧
    ∀ s : State, ∃ t : State, exec (.mulImm dr sr1 imm5) s = .next t ∧
      (t.reg dr).toNat = ((s.reg sr1).toNat * (BitVec.ofInt 16 imm5.toInt).toNat) % 65536 ∧ WritesOnly dr s t)

/-- R160, R155: DIV with a non-zero second operand, both forms: the unsigned quotient, rounded down.
That COND is as before is the spec's decision D9 (R29, R162; log entry 10). The place of
SR2 is its decision D3 (log entry 6). -/
def Obligations.DivIsTheUnsignedQuotient : Prop :=
  (∀ dr sr1 sr2 : Reg,
    encode (.divReg dr sr1 sr2) =
      0x9000#16 ||| dr.toBits.setWidth 16 <<< 9 ||| sr1.toBits.setWidth 16 <<< 5 ||| sr2.toBits.setWidth 16 <<< 2 ∧
    ∀ s : State, s.reg sr2 ≠ 0#16 → ∃ t : State, exec (.divReg dr sr1 sr2) s = .next t ∧
      (t.reg dr).toNat = (s.reg sr1).toNat / (s.reg sr2).toNat ∧ WritesOnly dr s t) ∧
  (∀ (dr sr1 : Reg) (imm5 : BitVec 5),
    encode (.divImm dr sr1 imm5) =
      0x9100#16 ||| dr.toBits.setWidth 16 <<< 9 ||| sr1.toBits.setWidth 16 <<< 5 ||| imm5.setWidth 16 ∧
    ∀ s : State, imm5 ≠ 0#5 → ∃ t : State, exec (.divImm dr sr1 imm5) s = .next t ∧
      (t.reg dr).toNat = (s.reg sr1).toNat / (BitVec.ofInt 16 imm5.toInt).toNat ∧ WritesOnly dr s t)

/-- R160, R182, R185, D6: DIV with a zero second operand, from SR2 or from IMM5, takes the DivisionByZero fault: the
record and the run state are written, DR and all else are not. -/
def Obligations.DivByZeroTakesTheFault : Prop :=
  ∀ (dr sr1 sr2 : Reg) (s : State),
    (s.reg sr2 = 0#16 → ∃ t : State, exec (.divReg dr sr1 sr2) s = .next t ∧
      t.run = .faulted ∧ t.faultCause = .divisionByZero ∧ t.faultIr = s.ir ∧ t.faultPc + 1#16 = s.pc ∧ FaultFrame s t) ∧
    (∃ t : State, exec (.divImm dr sr1 0#5) s = .next t ∧
      t.run = .faulted ∧ t.faultCause = .divisionByZero ∧ t.faultIr = s.ir ∧ t.faultPc + 1#16 = s.pc ∧ FaultFrame s t)

/-- R161: a word of opcode 0xA is NOT of DR = IR[11:9] and SR = IR[8:6], whatever IR[5:0] holds; it inverts every bit,
`65535 - v` as an integer, and changes nothing but DR. That IR[5:0] is ignored is the spec's decision D4 (log entry 18);
that COND is as before is its decision D9 (log entry 10). -/
def Obligations.NotInvertsEveryBit : Prop :=
  (∀ w : Word, w.extractLsb' 12 4 = 0xA#4 →
    decode w = .not (Reg.ofBits (w.extractLsb' 9 3)) (Reg.ofBits (w.extractLsb' 6 3))) ∧
  ∀ dr sr : Reg,
    encode (.not dr sr) = 0xA000#16 ||| dr.toBits.setWidth 16 <<< 9 ||| sr.toBits.setWidth 16 <<< 6 ∧
    ∀ s : State, ∃ t : State, exec (.not dr sr) s = .next t ∧
      (∀ n : Nat, n < 16 → (t.reg dr).getLsbD n = !(s.reg sr).getLsbD n) ∧
      (t.reg dr).toNat = 65535 - (s.reg sr).toNat ∧ WritesOnly dr s t

-- ## Compare and skip

/-- R171: EQ, both forms, skips the next word unless `x[R1] = B`, and changes nothing but PC. -/
def Obligations.EqSkipsUnlessEqual : Prop :=
  (∀ lhs sr2 : Reg,
    encode (.eqReg lhs sr2) = 0xB000#16 ||| lhs.toBits.setWidth 16 <<< 9 ||| sr2.toBits.setWidth 16 <<< 5 ∧
    ∀ s : State, ∃ t : State, exec (.eqReg lhs sr2) s = .next t ∧ WritesPcOnly s t ∧
      t.pc = if s.reg lhs = s.reg sr2 then s.pc else s.pc + 1#16) ∧
  (∀ (lhs : Reg) (imm8 : BitVec 8),
    encode (.eqImm lhs imm8) = 0xB100#16 ||| lhs.toBits.setWidth 16 <<< 9 ||| imm8.setWidth 16 ∧
    ∀ s : State, ∃ t : State, exec (.eqImm lhs imm8) s = .next t ∧ WritesPcOnly s t ∧
      t.pc = if s.reg lhs = BitVec.ofInt 16 imm8.toInt then s.pc else s.pc + 1#16)

/-- R172, R170, D7, D8: LT, both forms, skips the next word unless `x[R1] < B` as unsigned words, and changes nothing
but PC. -/
def Obligations.LtSkipsUnlessLess : Prop :=
  (∀ lhs sr2 : Reg,
    encode (.ltReg lhs sr2) = 0xC000#16 ||| lhs.toBits.setWidth 16 <<< 9 ||| sr2.toBits.setWidth 16 <<< 5 ∧
    ∀ s : State, ∃ t : State, exec (.ltReg lhs sr2) s = .next t ∧ WritesPcOnly s t ∧
      t.pc = if (s.reg lhs).toNat < (s.reg sr2).toNat then s.pc else s.pc + 1#16) ∧
  (∀ (lhs : Reg) (imm8 : BitVec 8),
    encode (.ltImm lhs imm8) = 0xC100#16 ||| lhs.toBits.setWidth 16 <<< 9 ||| imm8.setWidth 16 ∧
    ∀ s : State, ∃ t : State, exec (.ltImm lhs imm8) s = .next t ∧ WritesPcOnly s t ∧
      t.pc = if (s.reg lhs).toNat < (BitVec.ofInt 16 imm8.toInt).toNat then s.pc else s.pc + 1#16)

/-- R173, D17: LE, both forms, is LT: it skips unless `x[R1] < B` strictly, equal operands included. -/
def Obligations.LeSkipsUnlessLess : Prop :=
  (∀ lhs sr2 : Reg,
    encode (.leReg lhs sr2) = 0xD000#16 ||| lhs.toBits.setWidth 16 <<< 9 ||| sr2.toBits.setWidth 16 <<< 5 ∧
    ∀ s : State, ∃ t : State, exec (.leReg lhs sr2) s = .next t ∧ exec (.ltReg lhs sr2) s = .next t ∧
      WritesPcOnly s t ∧ t.pc = if (s.reg lhs).toNat < (s.reg sr2).toNat then s.pc else s.pc + 1#16) ∧
  (∀ (lhs : Reg) (imm8 : BitVec 8),
    encode (.leImm lhs imm8) = 0xD100#16 ||| lhs.toBits.setWidth 16 <<< 9 ||| imm8.setWidth 16 ∧
    ∀ s : State, ∃ t : State, exec (.leImm lhs imm8) s = .next t ∧ exec (.ltImm lhs imm8) s = .next t ∧
      WritesPcOnly s t ∧
      t.pc = if (s.reg lhs).toNat < (BitVec.ofInt 16 imm8.toInt).toNat then s.pc else s.pc + 1#16)

/-- R174: the word a false compare skips is neither fetched nor executed: whatever it is replaced by, the step does the
same. -/
def Obligations.SkippedWordHasNoEffect : Prop :=
  ∀ (s t : State) (w : Word), s.run = .running → step s = .next t → t.pc = s.pc + 2#16 →
    (opcodeOf (s.memRead s.pc) = .eq ∨ opcodeOf (s.memRead s.pc) = .lt ∨ opcodeOf (s.memRead s.pc) = .le) →
    step (s.memWrite (s.pc + 1#16) w) = .next (t.memWrite (s.pc + 1#16) w)

-- ## System

/-- R130, R189, D15: HALT writes `run` alone; PC keeps the post-increment value; the host is told the exit zero, and is
told nothing while the machine runs. -/
def Obligations.HaltWritesRunAlone : Prop :=
  encode .halt = 0x0000#16 ∧
  (∀ s : State, s.run = .running → s.hostReport = none) ∧
  ∀ s : State, ∃ t : State, exec .halt s = .next t ∧ t.run = .halted ∧ t.hostReport = some .exitZero ∧
    SameRegisters s t ∧ t.pc = s.pc ∧ t.cond = s.cond ∧ t.mar = s.mar ∧ SameFaultRecord s t ∧ t.dbg = s.dbg ∧
    t.ir = s.ir ∧ SameMemory s t

/-- R131, D19: DBG appends one record, the post-increment PC and R0 to R7, and changes nothing else. -/
def Obligations.DbgAppendsOneRecord : Prop :=
  encode .dbg = 0xE000#16 ∧
  ∀ s : State, ∃ (t : State) (d : DbgRecord), exec .dbg s = .next t ∧
    t.dbg = s.dbg ++ [d] ∧ d.pc = s.pc ∧ (∀ r : Reg, d.x.get r = s.reg r) ∧
    SameRegisters s t ∧ t.pc = s.pc ∧ t.cond = s.cond ∧ t.mar = s.mar ∧ t.run = s.run ∧ SameFaultRecord s t ∧
    t.ir = s.ir ∧ SameMemory s t

/-- R132, R181, R185: the unassigned opcode takes the UnknownOpcode fault. -/
def Obligations.UnassignedTakesTheFault : Prop :=
  ∀ s : State, ∃ t : State, exec .unassigned s = .next t ∧
    t.run = .faulted ∧ t.faultCause = .unknownOpcode ∧ t.faultIr = s.ir ∧ t.faultPc + 1#16 = s.pc ∧ FaultFrame s t

/-- S8, R132, R181, R189: a step that fetches a word 0xF000 to 0xFFFF ends FAULTED, the record naming the word and its
address, and the host is told the opcode 0xF. -/
def Obligations.UnknownOpcodeStepRecordsTheWord : Prop :=
  ∀ s : State, s.run = .running → 0xF000 ≤ (s.memRead s.pc).toNat →
    ∃ t : State, step s = .next t ∧ t.run = .faulted ∧ t.faultCause.code = 1#16 ∧ t.faultIr = s.memRead s.pc ∧
      t.faultPc = s.pc ∧ t.pc = s.pc + 1#16 ∧ t.hostReport = some (.exitNonZero .unknownOpcode 0xF#4)

-- ## Whole-machine rules

/-- R185, R186, R189: a step that enters FAULTED has had no effect but the increment of PC and the fault record, which names
the word fetched and its address; the cause is UnknownOpcode when the word has the unassigned opcode, and DivisionByZero
otherwise; the host is told the cause, the opcode (0xF or DIV's 9) and a non-zero exit. -/
def Obligations.FaultsArePrecise : Prop :=
  ∀ s t : State, s.run = .running → step s = .next t → t.run = .faulted →
    SameRegisters s t ∧ SameMemory s t ∧ t.cond = s.cond ∧ t.mar = s.mar ∧ t.dbg = s.dbg ∧
    t.pc = s.pc + 1#16 ∧ t.faultIr = s.memRead s.pc ∧ t.faultPc = s.pc ∧
    t.faultCause = (if opcodeOf (s.memRead s.pc) = .unassigned then FaultCause.unknownOpcode else .divisionByZero) ∧
    t.hostReport =
      some (if opcodeOf (s.memRead s.pc) = .unassigned then .exitNonZero .unknownOpcode 0xF#4
        else .exitNonZero .divisionByZero 0x9#4)

/-- R34, R116, R180: only three events end a run: HALTED is entered by a HALT and by nothing else, FAULTED by the
unassigned opcode and by a DIV whose second operand is 0, and by nothing else. -/
def Obligations.OnlyHaltAndTwoFaultsEndARun : Prop :=
  ∀ s t : State, s.run = .running → step s = .next t →
    (t.run = .halted ↔ opcodeOf (s.memRead s.pc) = .halt) ∧
    (t.run = .faulted ↔
      opcodeOf (s.memRead s.pc) = .unassigned ∨ divisor (decode (s.memRead s.pc)) s = some 0#16)

/-- R180, R183: a run of `k` steps is free of faults exactly when no instruction it reaches within them is the unassigned
opcode or a DIV by 0: nothing else, whatever the words, the addresses and the operands are, makes it fault. -/
def Obligations.NeverFaultsIffNoFaultingWordIsReached : Prop :=
  ∀ (k : Nat) (s : State), s.run ≠ .faulted →
    (NeverFaults k s ↔
      ∀ n < k, ∀ t : State, Host.Core.run Sys2Proof.core n s = .next t → t.run = .running →
        opcodeOf (t.memRead t.pc) ≠ .unassigned ∧ divisor (decode (t.memRead t.pc)) t ≠ some 0#16)

/-- R35, R130, R181, R182, R185, R186: every step keeps the fault record and the stopped PC true of the machine: clear
unless FAULTED; when FAULTED, the word at fault_pc, just before PC, is fault_ir and is the fault's cause; when HALTED,
the word just before PC is a HALT. -/
def Obligations.StepKeepsStopExplained : Prop :=
  ∀ s t : State, StopExplained s → step s = .next t → StopExplained t

/-- The invariant of `StepKeepsStopExplained` holds at power-up and after the reset sequence, whatever the open
parameters are. -/
def Obligations.ResetStopExplained : Prop :=
  (∀ (gprInit : Regs) (marInit : Word) (memInit : Memory), StopExplained (State.boot gprInit marInit memInit)) ∧
  StopExplained State.reset

/-- R50, R52 (log entry 1): every step keeps the memory's canonical form. -/
def Obligations.StepKeepsMemoryForm : Prop :=
  ∀ s t : State, Memory.wf s.mem → step s = .next t → Memory.wf t.mem

/-- The memory at reset has its canonical form. -/
def Obligations.ResetMemoryForm : Prop := Memory.wf State.reset.mem

/-- R50 (log entry 1): two memories in canonical form that read the same at every address are the same data. -/
def Obligations.EqualMemoriesAreEqualData : Prop :=
  ∀ m n : Memory, Memory.wf m → Memory.wf n → (∀ a : Addr, Memory.read m a = Memory.read n a) → m = n

/-- R33, R58, R67, R144, R223: over any number of steps from any state, MAR never changes and no word but the one at MAR
does: a program has exactly one writable word. -/
def Obligations.RunWritesOnlyTheWordAtMar : Prop :=
  ∀ (k : Nat) (s t : State), Host.Core.run Sys2Proof.core k s = .next t →
    t.mar = s.mar ∧ SameMemoryBut s.mar s t

/-- R29, D9 (the model's choice, log entry 10): under the default FLAG_WRITERS, no number of steps changes COND. -/
def Obligations.RunKeepsCond : Prop :=
  ∀ (k : Nat) (s t : State), Host.Core.run Sys2Proof.core k s = .next t → t.cond = s.cond

/-- R30: COND is invisible to every program: two states that differ in COND alone step to states that differ in COND
alone (log entry 10: under the default FLAG_WRITERS). -/
def Obligations.CondIsInvisible : Prop :=
  ∀ (s t : State) (c : Cond), step s = .next t → step { s with cond := c } = .next { t with cond := c }

/-- R35, R38: no instruction reads the fault record or the debug stream: other contents change nothing else of the
next state of a step that does not fault. -/
def Obligations.FaultRecordAndDebugStreamAreNotRead : Prop :=
  ∀ (s t : State) (cause : FaultCause) (w a : Word) (d : List DbgRecord),
    s.run = .running → step s = .next t → t.run ≠ .faulted →
    ∃ l : List DbgRecord, t.dbg = s.dbg ++ l ∧
      step { s with faultCause := cause, faultIr := w, faultPc := a, dbg := d } =
        .next { t with faultCause := cause, faultIr := w, faultPc := a, dbg := d ++ l }

/-- R38: the debug stream is append-only: over `k` steps it gains at most `k` records, at its end. -/
def Obligations.DebugStreamIsAppendOnly : Prop :=
  ∀ (k : Nat) (s t : State), Host.Core.run Sys2Proof.core k s = .next t →
    ∃ l : List DbgRecord, t.dbg = s.dbg ++ l ∧ l.length ≤ k

/-- R22, R114: a step writes at most one general register, and only an instruction of an opcode that R22 lists as
writing one writes it. -/
def Obligations.StepWritesAtMostOneRegister : Prop :=
  ∀ s t : State, step s = .next t →
    (∃ d : Reg, SameRegistersBut d s t) ∧
    (opcodeOf (s.memRead s.pc) ∉ [Op.loadc, .move, .loadm, .add, .sub, .mul, .div, .not] → SameRegisters s t)

/-- R25, R121: the next PC is the post-increment PC, or that plus or minus a JUMP's magnitude, or that plus 1 for a
compare. -/
def Obligations.NextPcIsOneOfFour : Prop :=
  ∀ s t : State, s.run = .running → step s = .next t →
    match decode (s.memRead s.pc) with
    | .jump sign offset =>
      t.pc = if sign = 0#1 then s.pc + 1#16 + offset.setWidth 16 else s.pc + 1#16 - offset.setWidth 16
    | .eqReg _ _ | .eqImm _ _ | .ltReg _ _ | .ltImm _ _ | .leReg _ _ | .leImm _ _ =>
      t.pc = s.pc + 1#16 ∨ t.pc = s.pc + 2#16
    | _ => t.pc = s.pc + 1#16

/-- R54 to R60, R116, R122, R211: a step issues the fetch read first and then at most one data transaction: a literal read
for LOADC, a mapped read for LOADM, a mapped write at MAR for STOREM, nothing for any other instruction. A machine that is
not RUNNING issues none, and the reset sequence issues one literal read, of address 0. -/
def Obligations.TransactionsOfAStep : Prop :=
  (∀ s : State, s.run = .running →
    stepTransactions s =
      .read .fetch s.pc ::
        (match decode (s.memRead s.pc) with
        | .loadc _ const9 => [.read .literal (BitVec.ofInt 16 (const9.toInt + 1))]
        | .loadm _ offset9 => [.read .mapped (BitVec.ofInt 16 (s.mar.toNat + offset9.toInt))]
        | .storem reg _ => [.write .mapped s.mar (s.reg reg)]
        | _ => [])) ∧
  (∀ s : State, s.run ≠ .running → stepTransactions s = []) ∧
  resetTransactions = [.read .literal 0#16]

/-- R52, R60: the memory after a step is the memory before it with the step's transactions applied in order. -/
def Obligations.MemoryChangesByTransactionsOnly : Prop :=
  ∀ s t : State, step s = .next t → t.mem = (stepTransactions s).foldl Transaction.applyTo s.mem

/-- R72, R122: a STOREM whose MAR is the address of the next instruction is seen by the very next fetch. -/
def Obligations.StoreIsSeenByTheNextFetch : Prop :=
  ∀ (s : State) (reg : Reg) (offset9 : BitVec 9), s.run = .running →
    decode (s.memRead s.pc) = .storem reg offset9 → s.mar = s.pc + 1#16 →
    ∃ t : State, step s = .next t ∧ t.memRead t.pc = s.reg reg ∧
      step t = exec (decode (s.reg reg)) { t with ir := s.reg reg, pc := s.pc + 2#16 }

/-- R116, R117: a run under fuel reports HALTED or FAULTED only of a machine that is so after that many steps, and
reports "not finished" only of one still RUNNING. -/
def Obligations.FuelledRunReportsTruly : Prop :=
  ∀ (k : Nat) (s : State), ∃ t : State, Host.Core.run Sys2Proof.core k s = .next t ∧
    execute k s =
      match t.run with
      | .running => .notFinished t
      | .halted => .halted t
      | .faulted => .faulted t

-- ## Parameters, loader, notation

/-- R29: `flags(v)` is ZERO for 0, NEGATIVE when bit 15 is 1, POSITIVE otherwise. -/
def Obligations.FlagsClassifyAWord : Prop :=
  ∀ v : Word,
    (flags v = .zero ↔ v.toNat = 0) ∧ (flags v = .negative ↔ v.getLsbD 15 = true) ∧
    (flags v = .positive ↔ 0 < v.toNat ∧ v.toNat < 32768)

/-- R58, R172, R173: the readings the parameters choose between, for every value of LT_SIGNED, LE_IS_LT and
STOREM_USES_OFFSET. -/
def Obligations.ParameterReadings : Prop :=
  (∀ a b : Word,
    (aluLess false a b = true ↔ a.toNat < b.toNat) ∧ (aluLess true a b = true ↔ a.toInt < b.toInt) ∧
    (∀ signed : Bool, aluLessEq true signed a b = aluLess signed a b) ∧
    (aluLessEq false false a b = true ↔ a.toNat ≤ b.toNat) ∧ (aluLessEq false true a b = true ↔ a.toInt ≤ b.toInt)) ∧
  (∀ (s : State) (off : Word),
    mappedWrAddr false s off = s.mar ∧ mappedWrAddr true s off = BitVec.ofNat 16 (s.mar.toNat + off.toNat))

/-- R104, R214: loading an image of at most 65536 words puts word `i` at address `i` and leaves every address past the
image as it was. -/
def Obligations.ImageIsLoadedFromZero : Prop :=
  ∀ (m : Memory) (image : List Word), image.length ≤ 65536 →
    ∀ a : Addr, Memory.read (Memory.load m image) a = image.getD a.toNat (Memory.read m a)

/-- R103, R104, S3, S4: the source's program assembles to the image the source gives, and its first step loads R0 with
the constant 7. -/
def Obligations.SourceExampleAssemblesAndLoads : Prop :=
  assemble [.const 7, .start, .instr .loadc [0, 0], .instr .halt []] =
    some [0x0002#16, 0x0007#16, 0x1000#16, 0x0000#16] ∧
  ∀ (gprInit : Regs) (marInit : Word) (memInit : Memory), ∃ s t : State,
    bootImage gprInit marInit memInit [0x0002#16, 0x0007#16, 0x1000#16, 0x0000#16] = some s ∧
    step s = .next t ∧ t.reg .r0 = 7#16 ∧ t.pc = 3#16

/-- R102, R103, R104, D22, D23 (log entry 18): a source text has an image exactly when it has one START line, every other
line denotes a word and the image fits the memory (R214); the image is then the header word, one more than the number of
lines before START, followed by the words of the other lines in order: `v mod 65536` for `CONST v`, the encoding of its
instruction for an instruction line. Where START follows
65535 words, the header, reduced to 0, is the model's choice (log entry 21). -/
def Obligations.AssembledImageHasOneStart : Prop :=
  let word : Line → Option Word := fun l =>
    match l with
    | .const v => some (BitVec.ofInt 16 v)
    | .start => none
    | .instr op operands => (assembleInstr op operands).map encode
  ∀ (lines : List Line) (image : List Word),
    assemble lines = some image ↔
      ∃ (before after : List Line) (words : List Word),
        lines = before ++ .start :: after ∧ .start ∉ before ∧ .start ∉ after ∧
        (before ++ after).map word = words.map some ∧
        image = BitVec.ofNat 16 (before.length + 1) :: words ∧ image.length ≤ 65536

/-- R6: what each value of each parameter makes of an instruction and a step, for every state. STOREM's address follows
STOREM_USES_OFFSET (R58); LT's and LE's relations follow LT_SIGNED and LE_IS_LT (R172, R173; `aluLess` and `aluLessEq` are
what `ParameterReadings` says); COND takes the class of the value written exactly after an instruction of FLAG_WRITERS
that writes a register, which a DIV by 0 does not (R29, R162); the host reads COND by COND_ENC (R31); a step decodes with
the field positions given (R82). -/
def Obligations.EveryParameterHasItsEffect : Prop :=
  ∀ (p : Params) (s : State),
    (∀ (reg : Reg) (offset9 : BitVec 9), ∃ t : State, execWith p (.storem reg offset9) s = .next t ∧
      let a := if p.storemUsesOffset then BitVec.ofInt 16 (s.mar.toNat + offset9.toInt) else s.mar
      t.memRead a = s.reg reg ∧ SameMemoryBut a s t ∧ SameRegisters s t ∧ t.pc = s.pc ∧ SameSpecial s t) ∧
    (∀ lhs sr2 : Reg,
      (∃ t : State, execWith p (.ltReg lhs sr2) s = .next t ∧ WritesPcOnly s t ∧
        t.pc = if aluLess p.ltSigned (s.reg lhs) (s.reg sr2) then s.pc else s.pc + 1#16) ∧
      (∃ t : State, execWith p (.leReg lhs sr2) s = .next t ∧ WritesPcOnly s t ∧
        t.pc = if aluLessEq p.leIsLt p.ltSigned (s.reg lhs) (s.reg sr2) then s.pc else s.pc + 1#16)) ∧
    (∀ (lhs : Reg) (imm8 : BitVec 8),
      (∃ t : State, execWith p (.ltImm lhs imm8) s = .next t ∧ WritesPcOnly s t ∧
        t.pc = if aluLess p.ltSigned (s.reg lhs) (BitVec.ofInt 16 imm8.toInt) then s.pc else s.pc + 1#16) ∧
      (∃ t : State, execWith p (.leImm lhs imm8) s = .next t ∧ WritesPcOnly s t ∧
        t.pc = if aluLessEq p.leIsLt p.ltSigned (s.reg lhs) (BitVec.ofInt 16 imm8.toInt) then s.pc else s.pc + 1#16)) ∧
    (∀ i : Instr, ∃ t : State, execWith p i s = .next t ∧
      t.cond =
        match destination i with
        | some d => if i.op ∈ p.flagWriters ∧ divisor i s ≠ some 0#16 then flags (t.reg d) else s.cond
        | none => s.cond) ∧
    s.condWord p =
      (match s.cond with
      | .positive => p.condEnc.positive
      | .zero => p.condEnc.zero
      | .negative => p.condEnc.negative) ∧
    stepWith p s =
      if s.run = .running then
        execWith p (decodeWith p.pos (s.memRead s.pc)) { s with ir := s.memRead s.pc, pc := s.pc + 1#16 }
      else .next s
end

