-- ==== Sys2Proof/Laws/State.lean ====
section
/-! SUPPORT. One lemma for each field of State under each named update, so that no proof unfolds a record update. -/

namespace Sys2Proof.Machine

@[simp] theorem State.setReg_regs (s : State) (r : Reg) (v : Word) : (s.setReg r v).regs = s.regs.set r v := rfl
@[simp] theorem State.setReg_pc (s : State) (r : Reg) (v : Word) : (s.setReg r v).pc = s.pc := rfl
@[simp] theorem State.setReg_cond (s : State) (r : Reg) (v : Word) : (s.setReg r v).cond = s.cond := rfl
@[simp] theorem State.setReg_mar (s : State) (r : Reg) (v : Word) : (s.setReg r v).mar = s.mar := rfl
@[simp] theorem State.setReg_mem (s : State) (r : Reg) (v : Word) : (s.setReg r v).mem = s.mem := rfl
@[simp] theorem State.setReg_run (s : State) (r : Reg) (v : Word) : (s.setReg r v).run = s.run := rfl
@[simp] theorem State.setReg_faultCause (s : State) (r : Reg) (v : Word) : (s.setReg r v).faultCause = s.faultCause := rfl
@[simp] theorem State.setReg_faultIr (s : State) (r : Reg) (v : Word) : (s.setReg r v).faultIr = s.faultIr := rfl
@[simp] theorem State.setReg_faultPc (s : State) (r : Reg) (v : Word) : (s.setReg r v).faultPc = s.faultPc := rfl
@[simp] theorem State.setReg_dbg (s : State) (r : Reg) (v : Word) : (s.setReg r v).dbg = s.dbg := rfl
@[simp] theorem State.setReg_ir (s : State) (r : Reg) (v : Word) : (s.setReg r v).ir = s.ir := rfl

@[simp] theorem State.setPc_regs (s : State) (v : Word) : (s.setPc v).regs = s.regs := rfl
@[simp] theorem State.setPc_pc (s : State) (v : Word) : (s.setPc v).pc = v := rfl
@[simp] theorem State.setPc_cond (s : State) (v : Word) : (s.setPc v).cond = s.cond := rfl
@[simp] theorem State.setPc_mar (s : State) (v : Word) : (s.setPc v).mar = s.mar := rfl
@[simp] theorem State.setPc_mem (s : State) (v : Word) : (s.setPc v).mem = s.mem := rfl
@[simp] theorem State.setPc_run (s : State) (v : Word) : (s.setPc v).run = s.run := rfl
@[simp] theorem State.setPc_faultCause (s : State) (v : Word) : (s.setPc v).faultCause = s.faultCause := rfl
@[simp] theorem State.setPc_faultIr (s : State) (v : Word) : (s.setPc v).faultIr = s.faultIr := rfl
@[simp] theorem State.setPc_faultPc (s : State) (v : Word) : (s.setPc v).faultPc = s.faultPc := rfl
@[simp] theorem State.setPc_dbg (s : State) (v : Word) : (s.setPc v).dbg = s.dbg := rfl
@[simp] theorem State.setPc_ir (s : State) (v : Word) : (s.setPc v).ir = s.ir := rfl

@[simp] theorem State.setCond_regs (s : State) (c : Cond) : (s.setCond c).regs = s.regs := rfl
@[simp] theorem State.setCond_pc (s : State) (c : Cond) : (s.setCond c).pc = s.pc := rfl
@[simp] theorem State.setCond_cond (s : State) (c : Cond) : (s.setCond c).cond = c := rfl
@[simp] theorem State.setCond_mar (s : State) (c : Cond) : (s.setCond c).mar = s.mar := rfl
@[simp] theorem State.setCond_mem (s : State) (c : Cond) : (s.setCond c).mem = s.mem := rfl
@[simp] theorem State.setCond_run (s : State) (c : Cond) : (s.setCond c).run = s.run := rfl
@[simp] theorem State.setCond_faultCause (s : State) (c : Cond) : (s.setCond c).faultCause = s.faultCause := rfl
@[simp] theorem State.setCond_faultIr (s : State) (c : Cond) : (s.setCond c).faultIr = s.faultIr := rfl
@[simp] theorem State.setCond_faultPc (s : State) (c : Cond) : (s.setCond c).faultPc = s.faultPc := rfl
@[simp] theorem State.setCond_dbg (s : State) (c : Cond) : (s.setCond c).dbg = s.dbg := rfl
@[simp] theorem State.setCond_ir (s : State) (c : Cond) : (s.setCond c).ir = s.ir := rfl

@[simp] theorem State.setRun_regs (s : State) (r : RunState) : (s.setRun r).regs = s.regs := rfl
@[simp] theorem State.setRun_pc (s : State) (r : RunState) : (s.setRun r).pc = s.pc := rfl
@[simp] theorem State.setRun_cond (s : State) (r : RunState) : (s.setRun r).cond = s.cond := rfl
@[simp] theorem State.setRun_mar (s : State) (r : RunState) : (s.setRun r).mar = s.mar := rfl
@[simp] theorem State.setRun_mem (s : State) (r : RunState) : (s.setRun r).mem = s.mem := rfl
@[simp] theorem State.setRun_run (s : State) (r : RunState) : (s.setRun r).run = r := rfl
@[simp] theorem State.setRun_faultCause (s : State) (r : RunState) : (s.setRun r).faultCause = s.faultCause := rfl
@[simp] theorem State.setRun_faultIr (s : State) (r : RunState) : (s.setRun r).faultIr = s.faultIr := rfl
@[simp] theorem State.setRun_faultPc (s : State) (r : RunState) : (s.setRun r).faultPc = s.faultPc := rfl
@[simp] theorem State.setRun_dbg (s : State) (r : RunState) : (s.setRun r).dbg = s.dbg := rfl
@[simp] theorem State.setRun_ir (s : State) (r : RunState) : (s.setRun r).ir = s.ir := rfl

@[simp] theorem State.setIr_regs (s : State) (w : Word) : (s.setIr w).regs = s.regs := rfl
@[simp] theorem State.setIr_pc (s : State) (w : Word) : (s.setIr w).pc = s.pc := rfl
@[simp] theorem State.setIr_cond (s : State) (w : Word) : (s.setIr w).cond = s.cond := rfl
@[simp] theorem State.setIr_mar (s : State) (w : Word) : (s.setIr w).mar = s.mar := rfl
@[simp] theorem State.setIr_mem (s : State) (w : Word) : (s.setIr w).mem = s.mem := rfl
@[simp] theorem State.setIr_run (s : State) (w : Word) : (s.setIr w).run = s.run := rfl
@[simp] theorem State.setIr_faultCause (s : State) (w : Word) : (s.setIr w).faultCause = s.faultCause := rfl
@[simp] theorem State.setIr_faultIr (s : State) (w : Word) : (s.setIr w).faultIr = s.faultIr := rfl
@[simp] theorem State.setIr_faultPc (s : State) (w : Word) : (s.setIr w).faultPc = s.faultPc := rfl
@[simp] theorem State.setIr_dbg (s : State) (w : Word) : (s.setIr w).dbg = s.dbg := rfl
@[simp] theorem State.setIr_ir (s : State) (w : Word) : (s.setIr w).ir = w := rfl

@[simp] theorem State.setMem_regs (s : State) (m : Memory) : (s.setMem m).regs = s.regs := rfl
@[simp] theorem State.setMem_pc (s : State) (m : Memory) : (s.setMem m).pc = s.pc := rfl
@[simp] theorem State.setMem_cond (s : State) (m : Memory) : (s.setMem m).cond = s.cond := rfl
@[simp] theorem State.setMem_mar (s : State) (m : Memory) : (s.setMem m).mar = s.mar := rfl
@[simp] theorem State.setMem_mem (s : State) (m : Memory) : (s.setMem m).mem = m := rfl
@[simp] theorem State.setMem_run (s : State) (m : Memory) : (s.setMem m).run = s.run := rfl
@[simp] theorem State.setMem_faultCause (s : State) (m : Memory) : (s.setMem m).faultCause = s.faultCause := rfl
@[simp] theorem State.setMem_faultIr (s : State) (m : Memory) : (s.setMem m).faultIr = s.faultIr := rfl
@[simp] theorem State.setMem_faultPc (s : State) (m : Memory) : (s.setMem m).faultPc = s.faultPc := rfl
@[simp] theorem State.setMem_dbg (s : State) (m : Memory) : (s.setMem m).dbg = s.dbg := rfl
@[simp] theorem State.setMem_ir (s : State) (m : Memory) : (s.setMem m).ir = s.ir := rfl

@[simp] theorem State.memWrite_regs (s : State) (a : Addr) (v : Word) : (s.memWrite a v).regs = s.regs := rfl
@[simp] theorem State.memWrite_pc (s : State) (a : Addr) (v : Word) : (s.memWrite a v).pc = s.pc := rfl
@[simp] theorem State.memWrite_cond (s : State) (a : Addr) (v : Word) : (s.memWrite a v).cond = s.cond := rfl
@[simp] theorem State.memWrite_mar (s : State) (a : Addr) (v : Word) : (s.memWrite a v).mar = s.mar := rfl
@[simp] theorem State.memWrite_mem (s : State) (a : Addr) (v : Word) : (s.memWrite a v).mem = Memory.write s.mem a v := rfl
@[simp] theorem State.memWrite_run (s : State) (a : Addr) (v : Word) : (s.memWrite a v).run = s.run := rfl
@[simp] theorem State.memWrite_faultCause (s : State) (a : Addr) (v : Word) : (s.memWrite a v).faultCause = s.faultCause := rfl
@[simp] theorem State.memWrite_faultIr (s : State) (a : Addr) (v : Word) : (s.memWrite a v).faultIr = s.faultIr := rfl
@[simp] theorem State.memWrite_faultPc (s : State) (a : Addr) (v : Word) : (s.memWrite a v).faultPc = s.faultPc := rfl
@[simp] theorem State.memWrite_dbg (s : State) (a : Addr) (v : Word) : (s.memWrite a v).dbg = s.dbg := rfl
@[simp] theorem State.memWrite_ir (s : State) (a : Addr) (v : Word) : (s.memWrite a v).ir = s.ir := rfl

@[simp] theorem State.fetch_regs (s : State) : (s.fetch).regs = s.regs := rfl
@[simp] theorem State.fetch_pc (s : State) : (s.fetch).pc = s.pc + 1#16 := rfl
@[simp] theorem State.fetch_cond (s : State) : (s.fetch).cond = s.cond := rfl
@[simp] theorem State.fetch_mar (s : State) : (s.fetch).mar = s.mar := rfl
@[simp] theorem State.fetch_mem (s : State) : (s.fetch).mem = s.mem := rfl
@[simp] theorem State.fetch_run (s : State) : (s.fetch).run = s.run := rfl
@[simp] theorem State.fetch_faultCause (s : State) : (s.fetch).faultCause = s.faultCause := rfl
@[simp] theorem State.fetch_faultIr (s : State) : (s.fetch).faultIr = s.faultIr := rfl
@[simp] theorem State.fetch_faultPc (s : State) : (s.fetch).faultPc = s.faultPc := rfl
@[simp] theorem State.fetch_dbg (s : State) : (s.fetch).dbg = s.dbg := rfl
@[simp] theorem State.fetch_ir (s : State) : (s.fetch).ir = s.memRead s.pc := rfl

@[simp] theorem State.writeResult_regs (s : State) (p : Params) (o : Op) (d : Reg) (v : Word) : (s.writeResult p o d v).regs = s.regs.set d v := rfl
@[simp] theorem State.writeResult_pc (s : State) (p : Params) (o : Op) (d : Reg) (v : Word) : (s.writeResult p o d v).pc = s.pc := rfl
@[simp] theorem State.writeResult_cond (s : State) (p : Params) (o : Op) (d : Reg) (v : Word) : (s.writeResult p o d v).cond = condAfter p.flagWriters o v s.cond := rfl
@[simp] theorem State.writeResult_mar (s : State) (p : Params) (o : Op) (d : Reg) (v : Word) : (s.writeResult p o d v).mar = s.mar := rfl
@[simp] theorem State.writeResult_mem (s : State) (p : Params) (o : Op) (d : Reg) (v : Word) : (s.writeResult p o d v).mem = s.mem := rfl
@[simp] theorem State.writeResult_run (s : State) (p : Params) (o : Op) (d : Reg) (v : Word) : (s.writeResult p o d v).run = s.run := rfl
@[simp] theorem State.writeResult_faultCause (s : State) (p : Params) (o : Op) (d : Reg) (v : Word) : (s.writeResult p o d v).faultCause = s.faultCause := rfl
@[simp] theorem State.writeResult_faultIr (s : State) (p : Params) (o : Op) (d : Reg) (v : Word) : (s.writeResult p o d v).faultIr = s.faultIr := rfl
@[simp] theorem State.writeResult_faultPc (s : State) (p : Params) (o : Op) (d : Reg) (v : Word) : (s.writeResult p o d v).faultPc = s.faultPc := rfl
@[simp] theorem State.writeResult_dbg (s : State) (p : Params) (o : Op) (d : Reg) (v : Word) : (s.writeResult p o d v).dbg = s.dbg := rfl
@[simp] theorem State.writeResult_ir (s : State) (p : Params) (o : Op) (d : Reg) (v : Word) : (s.writeResult p o d v).ir = s.ir := rfl

@[simp] theorem State.dbgEmit_regs (s : State) : (s.dbgEmit).regs = s.regs := rfl
@[simp] theorem State.dbgEmit_pc (s : State) : (s.dbgEmit).pc = s.pc := rfl
@[simp] theorem State.dbgEmit_cond (s : State) : (s.dbgEmit).cond = s.cond := rfl
@[simp] theorem State.dbgEmit_mar (s : State) : (s.dbgEmit).mar = s.mar := rfl
@[simp] theorem State.dbgEmit_mem (s : State) : (s.dbgEmit).mem = s.mem := rfl
@[simp] theorem State.dbgEmit_run (s : State) : (s.dbgEmit).run = s.run := rfl
@[simp] theorem State.dbgEmit_faultCause (s : State) : (s.dbgEmit).faultCause = s.faultCause := rfl
@[simp] theorem State.dbgEmit_faultIr (s : State) : (s.dbgEmit).faultIr = s.faultIr := rfl
@[simp] theorem State.dbgEmit_faultPc (s : State) : (s.dbgEmit).faultPc = s.faultPc := rfl
@[simp] theorem State.dbgEmit_dbg (s : State) : (s.dbgEmit).dbg = s.dbg ++ [{ pc := s.pc, x := s.regs }] := rfl
@[simp] theorem State.dbgEmit_ir (s : State) : (s.dbgEmit).ir = s.ir := rfl

@[simp] theorem State.halt_regs (s : State) : (s.halt).regs = s.regs := rfl
@[simp] theorem State.halt_pc (s : State) : (s.halt).pc = s.pc := rfl
@[simp] theorem State.halt_cond (s : State) : (s.halt).cond = s.cond := rfl
@[simp] theorem State.halt_mar (s : State) : (s.halt).mar = s.mar := rfl
@[simp] theorem State.halt_mem (s : State) : (s.halt).mem = s.mem := rfl
@[simp] theorem State.halt_run (s : State) : (s.halt).run = .halted := rfl
@[simp] theorem State.halt_faultCause (s : State) : (s.halt).faultCause = s.faultCause := rfl
@[simp] theorem State.halt_faultIr (s : State) : (s.halt).faultIr = s.faultIr := rfl
@[simp] theorem State.halt_faultPc (s : State) : (s.halt).faultPc = s.faultPc := rfl
@[simp] theorem State.halt_dbg (s : State) : (s.halt).dbg = s.dbg := rfl
@[simp] theorem State.halt_ir (s : State) : (s.halt).ir = s.ir := rfl

@[simp] theorem State.raise_regs (s : State) (f : FaultCause) : (s.raise f).regs = s.regs := rfl
@[simp] theorem State.raise_pc (s : State) (f : FaultCause) : (s.raise f).pc = s.pc := rfl
@[simp] theorem State.raise_cond (s : State) (f : FaultCause) : (s.raise f).cond = s.cond := rfl
@[simp] theorem State.raise_mar (s : State) (f : FaultCause) : (s.raise f).mar = s.mar := rfl
@[simp] theorem State.raise_mem (s : State) (f : FaultCause) : (s.raise f).mem = s.mem := rfl
@[simp] theorem State.raise_run (s : State) (f : FaultCause) : (s.raise f).run = .faulted := rfl
@[simp] theorem State.raise_faultCause (s : State) (f : FaultCause) : (s.raise f).faultCause = f := rfl
@[simp] theorem State.raise_faultIr (s : State) (f : FaultCause) : (s.raise f).faultIr = s.ir := rfl
@[simp] theorem State.raise_faultPc (s : State) (f : FaultCause) : (s.raise f).faultPc = s.pc - 1#16 := rfl
@[simp] theorem State.raise_dbg (s : State) (f : FaultCause) : (s.raise f).dbg = s.dbg := rfl
@[simp] theorem State.raise_ir (s : State) (f : FaultCause) : (s.raise f).ir = s.ir := rfl

@[simp] theorem State.resetSequence_regs (s : State) (m : Word) : (s.resetSequence m).regs = s.regs := rfl
@[simp] theorem State.resetSequence_pc (s : State) (m : Word) : (s.resetSequence m).pc = s.memRead 0#16 := rfl
@[simp] theorem State.resetSequence_cond (s : State) (m : Word) : (s.resetSequence m).cond = .zero := rfl
@[simp] theorem State.resetSequence_mar (s : State) (m : Word) : (s.resetSequence m).mar = m := rfl
@[simp] theorem State.resetSequence_mem (s : State) (m : Word) : (s.resetSequence m).mem = s.mem := rfl
@[simp] theorem State.resetSequence_run (s : State) (m : Word) : (s.resetSequence m).run = .running := rfl
@[simp] theorem State.resetSequence_faultCause (s : State) (m : Word) : (s.resetSequence m).faultCause = .none := rfl
@[simp] theorem State.resetSequence_faultIr (s : State) (m : Word) : (s.resetSequence m).faultIr = 0#16 := rfl
@[simp] theorem State.resetSequence_faultPc (s : State) (m : Word) : (s.resetSequence m).faultPc = 0#16 := rfl
@[simp] theorem State.resetSequence_dbg (s : State) (m : Word) : (s.resetSequence m).dbg = [] := rfl
@[simp] theorem State.resetSequence_ir (s : State) (m : Word) : (s.resetSequence m).ir = 0#16 := rfl

@[simp] theorem State.boot_regs (g : Regs) (a : Word) (m : Memory) : (State.boot g a m).regs = g := rfl
@[simp] theorem State.boot_pc (g : Regs) (a : Word) (m : Memory) : (State.boot g a m).pc = Memory.read m 0#16 := rfl
@[simp] theorem State.boot_cond (g : Regs) (a : Word) (m : Memory) : (State.boot g a m).cond = .zero := rfl
@[simp] theorem State.boot_mar (g : Regs) (a : Word) (m : Memory) : (State.boot g a m).mar = a := rfl
@[simp] theorem State.boot_mem (g : Regs) (a : Word) (m : Memory) : (State.boot g a m).mem = m := rfl
@[simp] theorem State.boot_run (g : Regs) (a : Word) (m : Memory) : (State.boot g a m).run = .running := rfl
@[simp] theorem State.boot_faultCause (g : Regs) (a : Word) (m : Memory) : (State.boot g a m).faultCause = .none := rfl
@[simp] theorem State.boot_faultIr (g : Regs) (a : Word) (m : Memory) : (State.boot g a m).faultIr = 0#16 := rfl
@[simp] theorem State.boot_faultPc (g : Regs) (a : Word) (m : Memory) : (State.boot g a m).faultPc = 0#16 := rfl
@[simp] theorem State.boot_dbg (g : Regs) (a : Word) (m : Memory) : (State.boot g a m).dbg = [] := rfl
@[simp] theorem State.boot_ir (g : Regs) (a : Word) (m : Memory) : (State.boot g a m).ir = 0#16 := rfl

@[simp] theorem State.skipUnless_regs (s : State) (h : Bool) : (s.skipUnless h).regs = s.regs := by
  cases h <;> rfl
@[simp] theorem State.skipUnless_pc (s : State) (h : Bool) : (s.skipUnless h).pc = if h then s.pc else s.pc + 1#16 := by
  cases h <;> rfl
@[simp] theorem State.skipUnless_cond (s : State) (h : Bool) : (s.skipUnless h).cond = s.cond := by
  cases h <;> rfl
@[simp] theorem State.skipUnless_mar (s : State) (h : Bool) : (s.skipUnless h).mar = s.mar := by
  cases h <;> rfl
@[simp] theorem State.skipUnless_mem (s : State) (h : Bool) : (s.skipUnless h).mem = s.mem := by
  cases h <;> rfl
@[simp] theorem State.skipUnless_run (s : State) (h : Bool) : (s.skipUnless h).run = s.run := by
  cases h <;> rfl
@[simp] theorem State.skipUnless_faultCause (s : State) (h : Bool) : (s.skipUnless h).faultCause = s.faultCause := by
  cases h <;> rfl
@[simp] theorem State.skipUnless_faultIr (s : State) (h : Bool) : (s.skipUnless h).faultIr = s.faultIr := by
  cases h <;> rfl
@[simp] theorem State.skipUnless_faultPc (s : State) (h : Bool) : (s.skipUnless h).faultPc = s.faultPc := by
  cases h <;> rfl
@[simp] theorem State.skipUnless_dbg (s : State) (h : Bool) : (s.skipUnless h).dbg = s.dbg := by
  cases h <;> rfl
@[simp] theorem State.skipUnless_ir (s : State) (h : Bool) : (s.skipUnless h).ir = s.ir := by
  cases h <;> rfl

/-- Under this hardware's FLAG_WRITERS nothing writes COND (10_state.md R29). -/
@[simp] theorem condAfter_params (o : Op) (v : Word) (c : Cond) : condAfter params.flagWriters o v c = c := rfl

end Sys2Proof.Machine
end

