-- ==== Sys2Proof/Laws/Memory.lean ====
section
/-! SUPPORT. The laws of the memory array (20_memory.md R52): a read after a write, and that every memory operation keeps
the canonical form. The read-after-write laws hold of every list, canonical or not. -/

namespace Sys2Proof.Machine

theorem Memory.lookup_erase (m : Memory) (a b : Nat) :
    Memory.lookup (Memory.erase m a) b = if b = a then Config.unwrittenWord else Memory.lookup m b := by
  induction m with
  | nil => simp [Memory.erase, Memory.lookup]
  | cons c rest ih =>
    obtain ⟨k, v⟩ := c
    by_cases hk : k = a
    · subst hk
      simp only [Memory.erase, bne_self_eq_false, List.filter_cons_of_neg, Bool.false_eq_true, not_false_eq_true,
        Memory.lookup] at ih ⊢
      rw [ih]
      split <;> simp_all [eq_comm]
    · have hne : ((k, v).1 != a) = true := by simpa using hk
      simp only [Memory.erase, List.filter_cons, hne, if_true, Memory.lookup] at ih ⊢
      rw [ih]
      split <;> split <;> simp_all

theorem Memory.lookup_insert (m : Memory) (a b : Nat) (v : Word) (h : ∀ c ∈ m, c.1 ≠ a) :
    Memory.lookup (Memory.insert m a v) b = if b = a then v else Memory.lookup m b := by
  induction m with
  | nil => simp only [Memory.insert, Memory.lookup, eq_comm]
  | cons c rest ih =>
    obtain ⟨k, w⟩ := c
    have hk : k ≠ a := h (k, w) (by simp)
    have ih' := ih fun c hc => h c (by simp [hc])
    simp only [Memory.insert]
    split
    · simp only [Memory.lookup, eq_comm (a := a)]
    · simp only [Memory.lookup, ih']
      split <;> split <;> simp_all

theorem Memory.mem_erase_ne (m : Memory) (a : Nat) : ∀ c ∈ Memory.erase m a, c.1 ≠ a := by
  intro c hc
  simpa using (List.mem_filter.mp hc).2

/-- A read after a write gives the value written at its address, and what stood there before at every other (R52). -/
theorem Memory.read_write (m : Memory) (a b : Addr) (v : Word) :
    Memory.read (Memory.write m a v) b = if b = a then v else Memory.read m b := by
  unfold Memory.read Memory.write
  split
  · simp_all only [Memory.lookup_erase, BitVec.toNat_inj]
  · simp only [Memory.lookup_insert _ _ _ _ (Memory.mem_erase_ne m a.toNat), Memory.lookup_erase, BitVec.toNat_inj]
    split <;> rfl

@[simp] theorem State.memRead_memWrite (s : State) (a b : Addr) (v : Word) :
    (s.memWrite a v).memRead b = if b = a then v else s.memRead b := Memory.read_write s.mem a b v

theorem Memory.erase_wf {m : Memory} (h : Memory.wf m) (a : Nat) : Memory.wf (Memory.erase m a) :=
  ⟨h.1.filter _, fun c hc => h.2 c (List.mem_of_mem_filter hc)⟩

theorem Memory.mem_insert {m : Memory} {a : Nat} {v : Word} {c : Nat × Word} (h : c ∈ Memory.insert m a v) :
    c = (a, v) ∨ c ∈ m := by
  induction m with
  | nil => simpa [Memory.insert] using h
  | cons d rest ih =>
    obtain ⟨k, w⟩ := d
    simp only [Memory.insert] at h
    split at h
    · simpa using h
    · rcases List.mem_cons.mp h with h | h
      · simp [h]
      · rcases ih h with h | h <;> simp [h]

theorem Memory.insert_wf {m : Memory} (h : Memory.wf m) {a : Nat} {v : Word} (ha : a < 65536)
    (hv : v ≠ Config.unwrittenWord) (hne : ∀ c ∈ m, c.1 ≠ a) : Memory.wf (Memory.insert m a v) := by
  refine ⟨?_, fun c hc => ?_⟩
  · induction m with
    | nil => simp [Memory.insert]
    | cons d rest ih =>
      obtain ⟨k, w⟩ := d
      have hrest : Memory.wf rest := ⟨(List.pairwise_cons.mp h.1).2, fun c hc => h.2 c (by simp [hc])⟩
      have hk : k ≠ a := hne (k, w) (by simp)
      simp only [Memory.insert]
      split
      · rename_i hlt
        refine List.pairwise_cons.mpr ⟨fun c hc => ?_, h.1⟩
        rcases List.mem_cons.mp hc with rfl | hc
        · exact hlt
        · exact hlt.trans ((List.pairwise_cons.mp h.1).1 c hc)
      · refine List.pairwise_cons.mpr ⟨fun c hc => ?_, ih hrest fun c hc => hne c (by simp [hc])⟩
        rcases Memory.mem_insert hc with rfl | hc
        · show k < a
          omega
        · exact (List.pairwise_cons.mp h.1).1 c hc
  · rcases Memory.mem_insert hc with rfl | hc
    · exact ⟨ha, hv⟩
    · exact h.2 c hc

/-- A write keeps the canonical form. -/
theorem Memory.write_wf {m : Memory} (h : Memory.wf m) (a : Addr) (v : Word) : Memory.wf (Memory.write m a v) := by
  unfold Memory.write
  split
  · exact Memory.erase_wf h _
  · rename_i hv
    exact Memory.insert_wf (Memory.erase_wf h _) a.isLt hv (Memory.mem_erase_ne m a.toNat)

theorem Memory.loadFrom_wf {m : Memory} (h : Memory.wf m) (a : Nat) (image : List Word) :
    Memory.wf (Memory.loadFrom m a image) := by
  induction image generalizing m a with
  | nil => exact h
  | cons w rest ih => exact ih (Memory.write_wf h _ _) _

/-- Loading an image keeps the canonical form. -/
theorem Memory.load_wf {m : Memory} (h : Memory.wf m) (image : List Word) : Memory.wf (Memory.load m image) :=
  Memory.loadFrom_wf h 0 image

/-- The empty memory has the canonical form. -/
theorem Memory.nil_wf : Memory.wf [] := by decide

end Sys2Proof.Machine
end

