-- ==== Sys2Proof/Laws/Registers.lean ====
section
/-! SUPPORT. Reading a register after a write, and the registers and the memory after each named update. -/

namespace Sys2Proof.Machine

/-- A register write changes that register and no other (00_scope.md R10). -/
theorem Regs.get_set (x : Regs) (d r : Reg) (v : Word) : (x.set d v).get r = if r = d then v else x.get r := by
  cases d <;> cases r <;> rfl

@[simp] theorem Regs.get_all (v : Word) (r : Reg) : (Regs.all v).get r = v := by
  cases r <;> rfl

theorem State.reg_def (s : State) (r : Reg) : s.reg r = s.regs.get r := rfl

/-- Two states with the same register file agree on every register. -/
theorem State.reg_congr {s t : State} (h : t.regs = s.regs) (r : Reg) : t.reg r = s.reg r := by
  simp only [State.reg_def, h]

/-- Two states with the same memory agree on every word. -/
theorem State.memRead_congr {s t : State} (h : t.mem = s.mem) (a : Addr) : t.memRead a = s.memRead a := by
  simp only [State.memRead, h]

@[simp] theorem State.reg_setReg (s : State) (d r : Reg) (v : Word) :
    (s.setReg d v).reg r = if r = d then v else s.reg r := Regs.get_set s.regs d r v

@[simp] theorem State.reg_writeResult (s : State) (p : Params) (o : Op) (d r : Reg) (v : Word) :
    (s.writeResult p o d v).reg r = if r = d then v else s.reg r := Regs.get_set s.regs d r v

@[simp] theorem State.reg_setPc (s : State) (v : Word) (r : Reg) : (s.setPc v).reg r = s.reg r := rfl

@[simp] theorem State.reg_memWrite (s : State) (a : Addr) (v : Word) (r : Reg) : (s.memWrite a v).reg r = s.reg r := rfl

@[simp] theorem State.reg_fetch (s : State) (r : Reg) : s.fetch.reg r = s.reg r := rfl

@[simp] theorem State.reg_dbgEmit (s : State) (r : Reg) : s.dbgEmit.reg r = s.reg r := rfl

@[simp] theorem State.reg_halt (s : State) (r : Reg) : s.halt.reg r = s.reg r := rfl

@[simp] theorem State.reg_raise (s : State) (f : FaultCause) (r : Reg) : (s.raise f).reg r = s.reg r := rfl

@[simp] theorem State.reg_skipUnless (s : State) (h : Bool) (r : Reg) : (s.skipUnless h).reg r = s.reg r := by
  cases h <;> rfl

@[simp] theorem State.memRead_writeResult (s : State) (p : Params) (o : Op) (d : Reg) (v : Word) (a : Addr) :
    (s.writeResult p o d v).memRead a = s.memRead a := rfl

@[simp] theorem State.memRead_setPc (s : State) (v : Word) (a : Addr) : (s.setPc v).memRead a = s.memRead a := rfl

@[simp] theorem State.memRead_fetch (s : State) (a : Addr) : s.fetch.memRead a = s.memRead a := rfl

@[simp] theorem State.memRead_dbgEmit (s : State) (a : Addr) : s.dbgEmit.memRead a = s.memRead a := rfl

@[simp] theorem State.memRead_halt (s : State) (a : Addr) : s.halt.memRead a = s.memRead a := rfl

@[simp] theorem State.memRead_raise (s : State) (f : FaultCause) (a : Addr) : (s.raise f).memRead a = s.memRead a := rfl

@[simp] theorem State.memRead_skipUnless (s : State) (h : Bool) (a : Addr) : (s.skipUnless h).memRead a = s.memRead a := by
  cases h <;> rfl

end Sys2Proof.Machine
end

