-- ==== Sys2Proof/Laws/Operations.lean ====
section
/-! SUPPORT. One lemma for each shared operation, saying all it can do, for a proof to cite in place of its unfolding. -/

namespace Sys2Proof.Machine

/-- ADD, SUB and MUL always write their result (44_alu.md R155). -/
theorem arith_eq (p : Params) (o : Op) (f : Word → Word → Word) (dr sr1 : Reg) (b : Word) (s : State) :
    arith p o f dr sr1 b s = .next (s.writeResult p o dr (f (s.reg sr1) b)) := rfl

/-- DIV by a divisor that is not 0 writes the quotient (R160). -/
theorem divide_of_ne {b : Word} (h : b ≠ 0#16) (p : Params) (dr sr1 : Reg) (s : State) :
    divide p dr sr1 b s = .next (s.writeResult p .div dr ((s.reg sr1).udiv b)) := by
  simp [divide, aluDivu, h]

/-- DIV by 0 takes the DivisionByZero fault (R160, R182). -/
theorem divide_of_eq_zero (p : Params) (dr sr1 : Reg) (s : State) :
    divide p dr sr1 0#16 s = .next (s.raise .divisionByZero) := rfl

/-- DIV answers one of two next states. -/
theorem divide_cases (p : Params) (dr sr1 : Reg) (b : Word) (s : State) :
    (b ≠ 0#16 ∧ divide p dr sr1 b s = .next (s.writeResult p .div dr ((s.reg sr1).udiv b))) ∨
    (b = 0#16 ∧ divide p dr sr1 b s = .next (s.raise .divisionByZero)) := by
  by_cases h : b = 0#16
  · exact .inr ⟨h, h ▸ divide_of_eq_zero p dr sr1 s⟩
  · exact .inl ⟨h, divide_of_ne h p dr sr1 s⟩

/-- EQ's skip, on the words (45_compare.md R171). -/
theorem compareEq_eq (r : Reg) (b : Word) (s : State) :
    compareEq r b s = .next (if s.reg r = b then s else s.setPc (s.pc + 1#16)) := by
  simp [compareEq, State.skipUnless, aluEq]

/-- LT's skip at this hardware's parameters: unsigned (R172). -/
theorem compareLt_eq (r : Reg) (b : Word) (s : State) :
    compareLt params r b s = .next (if (s.reg r).toNat < b.toNat then s else s.setPc (s.pc + 1#16)) := by
  simp [compareLt, State.skipUnless, aluLess, params, BitVec.ult]

/-- LE is LT at this hardware's parameters (R173). -/
theorem compareLe_eq_compareLt (r : Reg) (b : Word) (s : State) : compareLe params r b s = compareLt params r b s := rfl

/-- STOREM's address on this hardware is MAR, whatever the offset (20_memory.md R58). -/
@[simp] theorem mappedWrAddr_params (s : State) (off : Word) : mappedWrAddr params.storemUsesOffset s off = s.mar := rfl

/-- The address of the word just fetched is the address the fault entry records (60_exceptions.md R185). -/
@[simp] theorem fetch_raise_faultPc (s : State) (f : FaultCause) : (s.fetch.raise f).faultPc = s.pc := by
  simp

/-- A step of a running machine. -/
theorem step_of_running {s : State} (h : s.run = .running) : step s = exec (decode s.fetch.ir) s.fetch := by
  simp [step, h]

/-- A step of a stopped machine. -/
theorem step_of_not_running {s : State} (h : s.run ≠ .running) : step s = .next s := by
  simp [step, h]

/-- After `withFetchWord` the next step runs the instruction placed. -/
theorem step_withFetchWord (s : State) (nbits w : Nat) :
    step (s.withFetchWord nbits w) =
      exec (decode (BitVec.ofNat 16 (w % 2 ^ nbits))) (s.withFetchWord nbits w).fetch := by
  rw [step_of_running rfl]
  congr 2
  exact (Memory.read_write s.mem s.pc s.pc _).trans (if_pos rfl)

end Sys2Proof.Machine
end

