-- ==== Sys2Proof/Laws/Parametric.lean ====
section
/-! SUPPORT. The machine of Sys2Proof/Machine/Dispatch.lean and Step.lean is the parametric one at this hardware's values. -/

namespace Sys2Proof.Machine

@[simp] theorem execWith_params (i : Instr) (s : State) : execWith params i s = exec i s := by
  cases i <;> rfl

@[simp] theorem stepWith_params (s : State) : stepWith params s = step s := by
  simp only [stepWith, step, execWith_params]
  rfl

/-- A step of a running machine, under any parameters. -/
theorem stepWith_of_running {p : Params} {s : State} (h : s.run = .running) :
    stepWith p s = execWith p (decodeWith p.pos s.fetch.ir) s.fetch := by
  simp [stepWith, h]

end Sys2Proof.Machine
end

