-- ==== Sys2Proof/Laws/PerInstr.lean ====
section
/-! SUPPORT. The per-instruction family OpcodeField: the encoding of every instruction carries its opcode in bits 15:12
(30_encoding.md R81, R93), one lemma for each constructor. -/

namespace Sys2Proof.Laws

/-- The opcode of a word is read from bits 15:12 alone: bits below 12 do not matter. -/
theorem opcodeOf_or (o : Op) (rest : Word) (h : rest.toNat < 4096) : opcodeOf (placeOp o ||| rest) = o := by
  have hz : rest.extractLsb' 12 4 = 0#4 := by
    apply BitVec.eq_of_toNat_eq
    simp only [BitVec.extractLsb'_toNat, BitVec.toNat_ofNat, Nat.shiftRight_eq_div_pow]
    omega
  have hf : field (placeOp o ||| rest) 12 4 = o.code := by
    unfold field
    rw [BitVec.extractLsb'_or, hz]
    cases o <;> rfl
  rw [opcodeOf, hf]
  cases o <;> rfl

/-- A field that lies below bit 12 adds nothing at or above it. -/
theorem place_lt {len : Nat} (v : BitVec len) (lo : Nat) (h : len + lo ≤ 12) : (place v lo).toNat < 2 ^ 12 := by
  unfold place
  rw [BitVec.toNat_shiftLeft, BitVec.toNat_setWidth, Nat.shiftLeft_eq]
  refine lt_of_le_of_lt (Nat.mod_le _ _) ?_
  calc v.toNat % 2 ^ 16 * 2 ^ lo ≤ v.toNat * 2 ^ lo := Nat.mul_le_mul_right _ (Nat.mod_le _ _)
    _ < 2 ^ len * 2 ^ lo := by
      apply Nat.mul_lt_mul_of_pos_right v.isLt
      positivity
    _ = 2 ^ (len + lo) := (Nat.pow_add 2 len lo).symm
    _ ≤ 2 ^ 12 := Nat.pow_le_pow_right (by decide) h

theorem or_lt {a b : Word} (ha : a.toNat < 2 ^ 12) (hb : b.toNat < 2 ^ 12) : (a ||| b).toNat < 2 ^ 12 := by
  rw [BitVec.toNat_or]
  exact Nat.or_lt_two_pow ha hb

theorem opcodeOf_one (o : Op) {a : Word} (ha : a.toNat < 2 ^ 12) : opcodeOf (placeOp o ||| a) = o :=
  opcodeOf_or o a ha

theorem opcodeOf_two (o : Op) {a b : Word} (ha : a.toNat < 2 ^ 12) (hb : b.toNat < 2 ^ 12) :
    opcodeOf (placeOp o ||| a ||| b) = o := by
  rw [BitVec.or_assoc]
  exact opcodeOf_or o _ (or_lt ha hb)

theorem opcodeOf_three (o : Op) {a b c : Word} (ha : a.toNat < 2 ^ 12) (hb : b.toNat < 2 ^ 12) (hc : c.toNat < 2 ^ 12) :
    opcodeOf (placeOp o ||| a ||| b ||| c) = o := by
  rw [BitVec.or_assoc, BitVec.or_assoc]
  exact opcodeOf_or o _ (or_lt ha (or_lt hb hc))

theorem opcodeOf_four (o : Op) {a b c d : Word} (ha : a.toNat < 2 ^ 12) (hb : b.toNat < 2 ^ 12) (hc : c.toNat < 2 ^ 12)
    (hd : d.toNat < 2 ^ 12) : opcodeOf (placeOp o ||| a ||| b ||| c ||| d) = o := by
  rw [BitVec.or_assoc, BitVec.or_assoc, BitVec.or_assoc]
  exact opcodeOf_or o _ (or_lt ha (or_lt hb (or_lt hc hd)))

/-- A register index at bit 9 or lower lies below bit 12. -/
theorem placeReg_lt (r : Reg) (lo : Nat) (h : 3 + lo ≤ 12) : (placeReg r lo).toNat < 2 ^ 12 := place_lt _ lo h

theorem opcodeOf_aluReg (o : Op) (dr sr1 sr2 : Reg) : opcodeOf (encodeAluReg fieldPos o dr sr1 sr2) = o :=
  opcodeOf_three o (placeReg_lt dr 9 (by decide)) (placeReg_lt sr1 5 (by decide)) (placeReg_lt sr2 2 (by decide))

theorem opcodeOf_aluImm (o : Op) (dr sr1 : Reg) (imm5 : BitVec 5) : opcodeOf (encodeAluImm o dr sr1 imm5) = o :=
  opcodeOf_four o (placeReg_lt dr 9 (by decide)) (place_lt 1#1 8 (by decide)) (placeReg_lt sr1 5 (by decide))
    (place_lt imm5 0 (by decide))

theorem opcodeOf_cmpReg (o : Op) (lhs sr2 : Reg) : opcodeOf (encodeCmpReg fieldPos o lhs sr2) = o :=
  opcodeOf_two o (placeReg_lt lhs 9 (by decide)) (placeReg_lt sr2 5 (by decide))

theorem opcodeOf_cmpImm (o : Op) (lhs : Reg) (imm8 : BitVec 8) : opcodeOf (encodeCmpImm o lhs imm8) = o :=
  opcodeOf_three o (placeReg_lt lhs 9 (by decide)) (place_lt 1#1 8 (by decide)) (place_lt imm8 0 (by decide))

end Sys2Proof.Laws

namespace Sys2Proof.Laws.OpcodeField

/-- The encoding of `i` carries the opcode of `i` (R81, R93). -/
def Statement (i : Instr) : Prop := opcodeOf (encode i) = i.op

theorem halt : Statement .halt := rfl

theorem loadc (reg : Reg) (const9 : BitVec 9) : Statement (.loadc reg const9) :=
  opcodeOf_two .loadc (placeReg_lt reg 9 (by decide)) (place_lt const9 0 (by decide))

theorem move (src dst : Reg) : Statement (.move src dst) :=
  opcodeOf_two .move (placeReg_lt src 9 (by decide)) (placeReg_lt dst 6 (by decide))

theorem loadm (reg : Reg) (offset9 : BitVec 9) : Statement (.loadm reg offset9) :=
  opcodeOf_two .loadm (placeReg_lt reg 9 (by decide)) (place_lt offset9 0 (by decide))

theorem storem (reg : Reg) (offset9 : BitVec 9) : Statement (.storem reg offset9) :=
  opcodeOf_two .storem (placeReg_lt reg 9 (by decide)) (place_lt offset9 0 (by decide))

theorem jump (sign : BitVec 1) (offset : BitVec 10) : Statement (.jump sign offset) :=
  opcodeOf_two .jump (place_lt sign 11 (by decide)) (place_lt offset 1 (by decide))

theorem addReg (dr sr1 sr2 : Reg) : Statement (.addReg dr sr1 sr2) := opcodeOf_aluReg .add dr sr1 sr2

theorem addImm (dr sr1 : Reg) (imm5 : BitVec 5) : Statement (.addImm dr sr1 imm5) := opcodeOf_aluImm .add dr sr1 imm5

theorem subReg (dr sr1 sr2 : Reg) : Statement (.subReg dr sr1 sr2) := opcodeOf_aluReg .sub dr sr1 sr2

theorem subImm (dr sr1 : Reg) (imm5 : BitVec 5) : Statement (.subImm dr sr1 imm5) := opcodeOf_aluImm .sub dr sr1 imm5

theorem mulReg (dr sr1 sr2 : Reg) : Statement (.mulReg dr sr1 sr2) := opcodeOf_aluReg .mul dr sr1 sr2

theorem mulImm (dr sr1 : Reg) (imm5 : BitVec 5) : Statement (.mulImm dr sr1 imm5) := opcodeOf_aluImm .mul dr sr1 imm5

theorem divReg (dr sr1 sr2 : Reg) : Statement (.divReg dr sr1 sr2) := opcodeOf_aluReg .div dr sr1 sr2

theorem divImm (dr sr1 : Reg) (imm5 : BitVec 5) : Statement (.divImm dr sr1 imm5) := opcodeOf_aluImm .div dr sr1 imm5

theorem not (dr sr : Reg) : Statement (.not dr sr) :=
  opcodeOf_two .not (placeReg_lt dr 9 (by decide)) (placeReg_lt sr 6 (by decide))

theorem eqReg (lhs sr2 : Reg) : Statement (.eqReg lhs sr2) := opcodeOf_cmpReg .eq lhs sr2

theorem eqImm (lhs : Reg) (imm8 : BitVec 8) : Statement (.eqImm lhs imm8) := opcodeOf_cmpImm .eq lhs imm8

theorem ltReg (lhs sr2 : Reg) : Statement (.ltReg lhs sr2) := opcodeOf_cmpReg .lt lhs sr2

theorem ltImm (lhs : Reg) (imm8 : BitVec 8) : Statement (.ltImm lhs imm8) := opcodeOf_cmpImm .lt lhs imm8

theorem leReg (lhs sr2 : Reg) : Statement (.leReg lhs sr2) := opcodeOf_cmpReg .le lhs sr2

theorem leImm (lhs : Reg) (imm8 : BitVec 8) : Statement (.leImm lhs imm8) := opcodeOf_cmpImm .le lhs imm8

theorem dbg : Statement .dbg := rfl

theorem unassigned : Statement .unassigned := rfl

end Sys2Proof.Laws.OpcodeField
end

