-- ==== Sys2Proof/Tests/Slice0.lean ====
section
/-! SUPPORT. Tests of the model against the spec's own examples and derived vectors (95_test_vectors.md), and for each
statement with hypotheses a named witness that meets them. Every expected value is the spec's. -/

namespace Sys2Proof.Tests

open Sys2Proof Sys2Proof.Machine

-- ## Well-formedness: the hardware's positions pass, and each check refuses an ill-formed term

theorem test_fieldPos_wellFormed : fieldPos.wellFormed = true := by decide

/-- The right-aligned alternative of D3 is well formed too. -/
theorem test_rightAligned_wellFormed :
    ({ jumpSignBit := 11, jumpOffLo := 0, aluSr2Lo := 0, cmpSr2Lo := 0 } : FieldPos).wellFormed = true := by decide

theorem test_signInside_refuses : ({ fieldPos with jumpSignBit := 12 } : FieldPos).wellFormed = false := by decide

theorem test_offsetInside_refuses : ({ fieldPos with jumpSignBit := 0, jumpOffLo := 3 } : FieldPos).wellFormed = false := by
  decide

theorem test_jumpDisjoint_refuses : ({ fieldPos with jumpSignBit := 5 } : FieldPos).wellFormed = false := by decide

theorem test_aluSr2Inside_refuses : ({ fieldPos with aluSr2Lo := 3 } : FieldPos).wellFormed = false := by decide

theorem test_cmpSr2Inside_refuses : ({ fieldPos with cmpSr2Lo := 6 } : FieldPos).wellFormed = false := by decide

theorem test_imageFits_refuses_empty : imageFits [] = false := by decide

/-- An image of 65537 words is one word too long (R214). -/
theorem test_imageFits_refuses_long (image : List Word) (h : image.length = 65537) : imageFits image = false := by
  simp [imageFits, h]

-- ## Decoding: one word for each row of the table, written out from the formats R83 to R88

theorem test_decode_halt : decode 0b0000_000000000000#16 = .halt := by decide
theorem test_decode_loadc : decode 0b0001_111_111111111#16 = .loadc .r7 0x1FF#9 := by decide
theorem test_decode_move : decode 0b0010_010_101_111111#16 = .move .r2 .r5 := by decide
theorem test_decode_loadm : decode 0b0011_011_111111110#16 = .loadm .r3 0x1FE#9 := by decide
theorem test_decode_storem : decode 0b0100_000_000000011#16 = .storem .r0 3#9 := by decide
theorem test_decode_jump : decode 0b0101_1_0000000101_1#16 = .jump 1#1 5#10 := by decide
theorem test_decode_jump_far : decode 0b0101_0_1111111111_0#16 = .jump 0#1 1023#10 := by decide
theorem test_decode_addReg : decode 0b0110_001_0_011_000_11#16 = .addReg .r1 .r3 .r0 := by decide
theorem test_decode_addImm : decode 0b0110_000_1_001_11111#16 = .addImm .r0 .r1 0x1F#5 := by decide
theorem test_decode_subReg : decode 0b0111_001_0_010_100_00#16 = .subReg .r1 .r2 .r4 := by decide
theorem test_decode_subImm : decode 0b0111_000_1_000_00001#16 = .subImm .r0 .r0 1#5 := by decide
theorem test_decode_mulReg : decode 0b1000_011_0_001_010_00#16 = .mulReg .r3 .r1 .r2 := by decide
theorem test_decode_mulImm : decode 0b1000_001_1_010_10000#16 = .mulImm .r1 .r2 0x10#5 := by decide
theorem test_decode_divReg : decode 0b1001_010_0_001_000_00#16 = .divReg .r2 .r1 .r0 := by decide
theorem test_decode_divImm : decode 0b1001_010_1_001_00000#16 = .divImm .r2 .r1 0#5 := by decide
theorem test_decode_not : decode 0b1010_100_001_111111#16 = .not .r4 .r1 := by decide
theorem test_decode_eqReg : decode 0b1011_001_0_010_11111#16 = .eqReg .r1 .r2 := by decide
theorem test_decode_eqImm : decode 0b1011_010_1_10000000#16 = .eqImm .r2 0x80#8 := by decide
theorem test_decode_ltReg : decode 0b1100_011_0_100_00000#16 = .ltReg .r3 .r4 := by decide
theorem test_decode_ltImm : decode 0b1100_000_1_00000101#16 = .ltImm .r0 5#8 := by decide
theorem test_decode_leReg : decode 0b1101_001_0_001_00000#16 = .leReg .r1 .r1 := by decide
theorem test_decode_leImm : decode 0b1101_110_1_11111111#16 = .leImm .r6 0xFF#8 := by decide
theorem test_decode_dbg : decode 0b1110_111111111111#16 = .dbg := by decide
theorem test_decode_unassigned : decode 0xFABC#16 = .unassigned := by decide

/-- Part 4: with ALU_SR2_LO = 0 the word for `MUL R3, R1, R2` is 0x8622, with JUMP_OFF_LO = 0 that for SIGN 1, OFFSET 5
is 0x5805. -/
theorem test_encode_other_positions :
    encodeWith { fieldPos with aluSr2Lo := 0 } (.mulReg .r3 .r1 .r2) = 0x8622#16 ∧
    encodeWith { fieldPos with jumpOffLo := 0 } (.jump 1#1 5#10) = 0x5805#16 := by decide

theorem test_decodeTableWord : decodeTableWord 16 0xA840 = some (.not .r4 .r1) := by decide

-- ## One step of each instruction

/-- A machine about to execute the word `w` at address `a`, with the registers `x`, MAR `mar` and further memory. -/
def about (x : Regs) (a mar w : Nat) (more : List (Nat × Nat)) : State :=
  { State.boot x (BitVec.ofNat 16 mar)
      (more.foldl (fun m c => Memory.write m (BitVec.ofNat 16 c.1) (BitVec.ofNat 16 c.2))
        (Memory.write [] (BitVec.ofNat 16 a) (BitVec.ofNat 16 w))) with
    pc := BitVec.ofNat 16 a }

/-- The start registers of section 2.6 of the vectors. -/
def x26 : Regs := ⟨0x0010#16, 0x0003#16, 0x0005#16, 0#16, 0#16, 0#16, 0#16, 0x8000#16⟩

/-- The start registers of section 2.3. -/
def x23 : Regs := ⟨1#16, 2#16, 3#16, 4#16, 5#16, 6#16, 7#16, 8#16⟩

/-- One value of the state after one step, if the step answers a next state. -/
def look {α : Type} (s : State) (get : State → α) : Option α :=
  match step s with
  | .next t => some (get t)
  | .fault f => nomatch f
  | .refused _ => none

theorem test_halt_wraps_pc :
    look (about x23 0xFFFF 0 0x0FFF []) (fun t => (t.pc, t.run)) = some (0x0000#16, .halted) := by decide

theorem test_dbg_record :
    look (about x23 0xFFFF 0 0xE123 []) (fun t => (t.pc, t.dbg)) = some (0x0000#16, [{ pc := 0#16, x := x23 }]) := by decide

theorem test_unassigned_fault :
    look (about x23 5 0 0xFABC []) (fun t => (t.pc, t.run, t.faultCause.code, t.faultIr, t.faultPc)) =
      some (6#16, .faulted, 1#16, 0xFABC#16, 5#16) := by decide

theorem test_unassigned_fault_at_top :
    look (about x23 0xFFFF 0 0xF000 []) (fun t => (t.pc, t.faultPc)) = some (0x0000#16, 0xFFFF#16) := by decide

theorem test_loadc_top_of_memory :
    look (about x26 20 0 0x1500 [(0xFF01, 0x2222)]) (fun t => (t.reg .r2, t.pc)) = some (0x2222#16, 21#16) := by decide

theorem test_loadc_header : look (about x26 20 0 0x1FFF [(0, 2)]) (fun t => t.reg .r7) = some 2#16 := by decide

theorem test_move_source_first :
    look (about ⟨0#16, 0#16, 0xABCD#16, 0#16, 0#16, 1#16, 0#16, 0#16⟩ 20 0 0x2540 []) (fun t => (t.reg .r2, t.reg .r5)) =
      some (0xABCD#16, 0xABCD#16) := by decide

theorem test_loadm_wraps_down :
    look (about x26 20 0x0010 0x3B00 [(0xFF10, 0x0D0D)]) (fun t => t.reg .r5) = some 0x0D0D#16 := by decide

theorem test_loadm_wraps_up : look (about x26 20 0xFFFF 0x3201 [(0, 2)]) (fun t => t.reg .r1) = some 2#16 := by decide

theorem test_storem_ignores_offset :
    look (about ⟨0x1234#16, 0#16, 0#16, 0#16, 0#16, 0#16, 0#16, 0#16⟩ 20 12 0x4003 [(15, 9)])
      (fun t => (t.memRead 12#16, t.memRead 15#16)) = some (0x1234#16, 9#16) := by decide

theorem test_storem_zero_unlists :
    look (about x26 20 0x0015 0x4600 [(21, 0x5802)]) (fun t => (t.memRead 21#16, t.mem)) =
      some (0#16, [(20, 0x4600#16)]) := by decide

theorem test_jump_wraps_below_zero : look (about x26 0 0 0x5FFE []) (fun t => t.pc) = some 0xFC02#16 := by decide

theorem test_jump_wraps_above_top : look (about x26 0xFFFD 0 0x500A []) (fun t => t.pc) = some 0x0003#16 := by decide

theorem test_addReg_all_same : look (about x26 20 0 0x6EFC []) (fun t => t.reg .r7) = some 0#16 := by decide

theorem test_addImm_most_negative : look (about x26 20 0 0x6130 []) (fun t => t.reg .r0) = some 0xFFF3#16 := by decide

theorem test_subReg_self : look (about x26 20 0 0x7000 []) (fun t => t.reg .r0) = some 0#16 := by decide

theorem test_subImm : look (about x26 20 0 0x7101 []) (fun t => t.reg .r0) = some 0x000F#16 := by decide

theorem test_mulReg_low_half :
    look (about ⟨0#16, 300#16, 300#16, 0#16, 0#16, 0#16, 0#16, 0#16⟩ 20 0 0x8628 []) (fun t => t.reg .r3) =
      some 0x5F90#16 := by decide

theorem test_mulImm_negates : look (about x26 20 0 0x833F []) (fun t => t.reg .r1) = some 0xFFFD#16 := by decide

theorem test_divReg : look (about x26 20 0 0x9808 []) (fun t => t.reg .r4) = some 3#16 := by decide

theorem test_divReg_by_zero :
    look (about ⟨0#16, 3#16, 5#16, 0#16, 0#16, 0#16, 0#16, 0#16⟩ 20 0 0x9420 [])
      (fun t => (t.run, t.faultCause.code, t.faultIr, t.faultPc, t.pc, t.reg .r2)) =
      some (.faulted, 2#16, 0x9420#16, 20#16, 21#16, 5#16) := by decide

theorem test_divImm_unsigned : look (about x26 20 0 0x933F []) (fun t => t.reg .r1) = some 0#16 := by decide

theorem test_divImm_by_zero :
    look (about x26 20 0 0x9520 []) (fun t => (t.run, t.faultIr, t.reg .r2)) = some (.faulted, 0x9520#16, 5#16) := by decide

theorem test_not_destination_first : look (about x26 20 0 0xA840 []) (fun t => t.reg .r4) = some 0xFFFC#16 := by decide

theorem test_eqReg_true :
    look (about ⟨0#16, 0x1234#16, 0x1234#16, 0#16, 0#16, 0#16, 0#16, 0#16⟩ 5 0 0xB240 []) (fun t => t.pc) = some 6#16 := by
  decide

theorem test_eqImm_sign_extends :
    look (about ⟨0x00FF#16, 0#16, 0#16, 0#16, 0#16, 0#16, 0#16, 0#16⟩ 5 0 0xB1FF []) (fun t => t.pc) = some 7#16 := by decide

theorem test_ltReg_unsigned :
    look (about ⟨0#16, 0#16, 0#16, 0x7FFF#16, 0x8000#16, 0#16, 0#16, 0#16⟩ 5 0 0xC680 []) (fun t => t.pc) = some 6#16 := by
  decide

theorem test_ltImm_false_wraps :
    look (about ⟨0xFFFF#16, 0#16, 0#16, 0#16, 0#16, 0#16, 0#16, 0#16⟩ 0xFFFE 0 0xC1FF []) (fun t => t.pc) =
      some 0x0000#16 := by decide

theorem test_leReg_equal_skips : look (about x26 5 0 0xD220 []) (fun t => t.pc) = some 7#16 := by decide

theorem test_leImm_true : look (about x26 5 0 0xDDFF []) (fun t => t.pc) = some 6#16 := by decide

-- ## Operations, reset, loader

/-- Section 2.1 of the vectors. -/
theorem test_sext :
    sext 0x10#5 = 0xFFF0#16 ∧ sext 0x0F#5 = 0x000F#16 ∧ sext 0x80#8 = 0xFF80#16 ∧ sext 0x1FE#9 = 0xFFFE#16 ∧
    sext 0x0FF#9 = 0x00FF#16 := by decide

/-- Section 2.7: the rows that say what LT_SIGNED = true and LE_IS_LT = false would give. -/
theorem test_other_readings :
    aluLess true 0x0000#16 0xFFFF#16 = false ∧ aluLess true 0xFFFF#16 0x0005#16 = true ∧
    aluLess true 0x7FFF#16 0x8000#16 = false ∧ aluLessEq false false 5#16 5#16 = true := by decide

theorem test_flags : flags 0#16 = .zero ∧ flags 0x8000#16 = .negative ∧ flags 0x7FFF#16 = .positive := by decide

/-- COND under a FLAG_WRITERS that holds ADD (Part 4). -/
theorem test_condAfter : condAfter [.add] .add 0xFFFF#16 .zero = .negative ∧ condAfter [.add] .mul 0xFFFF#16 .zero = .zero := by
  decide

/-- Part 4: COND after one step under a FLAG_WRITERS that holds ADD, and STOREM under STOREM_USES_OFFSET = true. -/
theorem test_stepWith :
    (match stepWith { params with flagWriters := [.add] } (about x26 20 0 0x6130 []) with
      | .next t => some t.cond
      | .fault _ => none
      | .refused _ => none) = some .negative ∧
    (match stepWith { params with storemUsesOffset := true } (about x26 20 12 0x4003 [(15, 9)]) with
      | .next t => some (t.memRead 15#16)
      | .fault _ => none
      | .refused _ => none) = some 0x0010#16 := by decide

/-- The host's reading of COND with the default COND_ENC (R31). -/
theorem test_condWord : State.reset.condWord params = 0x0002#16 := by decide

/-- An image with no word starts no run (log entry 19). -/
theorem test_bootImage_refuses_empty : bootImage x23 0#16 [] [] = none := by decide

/-- The reduction of a negative operand in an unsigned field (log entry 20). -/
theorem test_negative_unsigned_operand :
    assembleInstr .move [-1, 0] = some (.move .r7 .r0) ∧ assembleInstr .jump [0, -5] = some (.jump 0#1 1019#10) := by decide

/-- Section 2.8: reset from FAULTED, the memory kept. -/
theorem test_resetSequence :
    ((about x23 5 12 0xFABC [(0, 2)]).fetch.raise .unknownOpcode).resetSequence 4#16 =
      State.boot x23 4#16 (about x23 5 12 0xFABC [(0, 2)]).mem := by decide

theorem test_reset_runs_placed_instruction :
    look (State.reset.withFetchWord 16 0x613F) (fun t => (t.reg .r0, t.pc)) = some (0xFFFF#16, 1#16) := by decide

/-- With nothing placed, the first instruction after reset is the zero word at address 0, a HALT (R97, R212). -/
theorem test_reset_alone_halts : look State.reset (fun t => (t.run, t.pc)) = some (.halted, 1#16) := by decide

/-- Program P7's image (Part 3). -/
theorem test_assemble_P7 :
    assemble [.start, .instr .sub [0, 0, 0, 0], .instr .add [0, 1, 0, 5], .instr .sub [1, 0, 1, 1], .instr .add [1, 1, 1, 1],
      .instr .mul [1, 0, 1, 0], .instr .sub [0, 1, 0, 1], .instr .eq [0, 1, 0], .instr .jump [0, 1], .instr .jump [1, 5],
      .instr .halt []] =
    some [0x0001#16, 0x7000#16, 0x6105#16, 0x7224#16, 0x6321#16, 0x8220#16, 0x7101#16, 0xB100#16, 0x5002#16, 0x580A#16,
      0x0000#16] := by decide

theorem test_assemble_refuses_two_starts : assemble [.start, .start, .instr .halt []] = none := by decide

theorem test_assemble_refuses_wrong_operands : assemble [.start, .instr .move [1]] = none := by decide

theorem test_imageOfBytes :
    imageOfBytes .bigEndian [0x12#8, 0x34#8] = some [0x1234#16] ∧
    imageOfBytes .littleEndian [0x12#8, 0x34#8] = some [0x3412#16] ∧ imageOfBytes .bigEndian [0x12#8] = none := by decide

theorem test_hostReport :
    State.hostReport ((about x23 5 12 0xFABC []).fetch.raise .unknownOpcode) =
      some (.exitNonZero .unknownOpcode 0xF#4) := by decide

theorem test_fuel_runs_out : execute 0 State.reset = .notFinished State.reset := by decide

-- ## Witnesses: for each statement with hypotheses, a concrete input that meets all of them

/-- The state after one step. -/
def after (s : State) : State :=
  match step s with
  | .next t => t
  | .fault f => nomatch f
  | .refused _ => s

/-- A JUMP forward by 1023 words from address 0, and one backward by 1023 from 0x400. -/
def jumper (a w : Nat) : State := about x26 a 0 w []

theorem witness_DecodeEncodeForEveryFieldPosition : fieldPos.wellFormed = true := by decide

theorem witness_EncodingIsInverseOfDecoding :
    ((-16 : Int) ≤ -16 ∧ (-16 : Int) ≤ 15) ∧ ((-128 : Int) ≤ 127 ∧ (127 : Int) ≤ 127) ∧
    ((-256 : Int) ≤ -256 ∧ (-256 : Int) ≤ 255) := by decide

theorem witness_UnusedBitsAreIgnored : (0x580A#16 ^^^ 0x580B#16) &&& usedBits 0x580A#16 = 0#16 := by decide

theorem witness_SignExtensionValue : ((5 : Nat) = 5 ∨ (5 : Nat) = 8 ∨ (5 : Nat) = 9) ∧ (0b10000#5).getLsbD (5 - 1) = true := by
  decide

theorem witness_StepRunsDecodedInstruction : State.reset.run = .running := by decide

theorem witness_StepRunsEncodedInstruction :
    (about x26 9 0 0x580B []).run = .running ∧
    (about x26 9 0 0x580B []).memRead (about x26 9 0 0x580B []).pc &&&
      usedBits ((about x26 9 0 0x580B []).memRead (about x26 9 0 0x580B []).pc) = encode (.jump 1#1 5#10) := by decide

theorem witness_StoppedMachineNeverChanges : State.reset.halt.run ≠ .running := by decide

theorem witness_OldIrHasNoEffect : State.reset.run = .running := by decide

theorem witness_JumpOperandReachesItsTarget_forward :
    (jumper 0 0x57FE).run = .running ∧ (jumper 0 0x57FE).pc.toNat + 1 < 65536 ∧
    (jumper 0 0x57FE).pc.toNat + 1 ≤ (0x0400#16).toNat ∧ (0x0400#16).toNat - ((jumper 0 0x57FE).pc.toNat + 1) ≤ 1023 ∧
    decode ((jumper 0 0x57FE).memRead (jumper 0 0x57FE).pc) =
      .jump 0#1 (BitVec.ofNat 10 ((0x0400#16).toNat - ((jumper 0 0x57FE).pc.toNat + 1))) := by decide

theorem witness_JumpOperandReachesItsTarget_backward :
    (jumper 0x400 0x5FFE).run = .running ∧ (jumper 0x400 0x5FFE).pc.toNat + 1 < 65536 ∧
    (0x0002#16).toNat < (jumper 0x400 0x5FFE).pc.toNat + 1 ∧ (jumper 0x400 0x5FFE).pc.toNat + 1 - (0x0002#16).toNat ≤ 1023 ∧
    decode ((jumper 0x400 0x5FFE).memRead (jumper 0x400 0x5FFE).pc) =
      .jump 1#1 (BitVec.ofNat 10 ((jumper 0x400 0x5FFE).pc.toNat + 1 - (0x0002#16).toNat)) := by decide

/-- Where the two clauses meet: the target `a + 1` itself, by distance 0. -/
theorem witness_JumpOperandReachesItsTarget_next :
    (jumper 0xA 0x5000).pc.toNat + 1 ≤ (0x000B#16).toNat ∧ (0x000B#16).toNat - ((jumper 0xA 0x5000).pc.toNat + 1) ≤ 1023 ∧
    decode ((jumper 0xA 0x5000).memRead (jumper 0xA 0x5000).pc) =
      .jump 0#1 (BitVec.ofNat 10 ((0x000B#16).toNat - ((jumper 0xA 0x5000).pc.toNat + 1))) := by decide

theorem witness_DivIsTheUnsignedQuotient : (about x26 20 0 0x9808 []).reg .r2 ≠ 0#16 ∧ (0x1F#5 : BitVec 5) ≠ 0#5 := by decide

theorem witness_DivByZeroTakesTheFault : (about x26 20 0 0x9420 []).reg .r3 = 0#16 := by decide

/-- A false `EQ R0, #1` at 2 over a word that would fault. -/
def skipper : State := about (Regs.all 0#16) 2 6 0xB101 [(3, 0xF000)]

theorem witness_SkippedWordHasNoEffect :
    skipper.run = .running ∧ step skipper = .next (after skipper) ∧ (after skipper).pc = skipper.pc + 2#16 ∧
    (opcodeOf (skipper.memRead skipper.pc) = .eq ∨ opcodeOf (skipper.memRead skipper.pc) = .lt ∨
      opcodeOf (skipper.memRead skipper.pc) = .le) := ⟨by decide, rfl, by decide, by decide⟩

theorem witness_UnknownOpcodeStepRecordsTheWord :
    (about x23 5 0 0xF000 []).run = .running ∧
    0xF000 ≤ ((about x23 5 0 0xF000 []).memRead (about x23 5 0 0xF000 []).pc).toNat := by decide

theorem witness_FaultsArePrecise_unknownOpcode :
    (about x23 5 0 0xFABC []).run = .running ∧ step (about x23 5 0 0xFABC []) = .next (after (about x23 5 0 0xFABC [])) ∧
    (after (about x23 5 0 0xFABC [])).run = .faulted := ⟨by decide, rfl, by decide⟩

theorem witness_FaultsArePrecise_divisionByZero :
    (about x26 20 0 0x9520 []).run = .running ∧ step (about x26 20 0 0x9520 []) = .next (after (about x26 20 0 0x9520 [])) ∧
    (after (about x26 20 0 0x9520 [])).run = .faulted := ⟨by decide, rfl, by decide⟩

theorem witness_OnlyHaltAndTwoFaultsEndARun :
    State.reset.run = .running ∧ step State.reset = .next (after State.reset) := ⟨by decide, rfl⟩

theorem witness_NeverFaultsIffNoFaultingWordIsReached : State.reset.run ≠ .faulted := by decide

theorem witness_StepKeepsStopExplained :
    StopExplained State.reset ∧ step State.reset = .next (after State.reset) :=
  ⟨⟨fun _ => ⟨rfl, rfl, rfl⟩, nofun, nofun⟩, rfl⟩

/-- The invariant is met in a FAULTED state as well, with a record that is not clear. -/
theorem witness_StepKeepsStopExplained_faulted : StopExplained (after (about x26 20 0 0x9520 [])) :=
  ⟨fun h => absurd (by decide) h, fun _ => ⟨by decide, by decide, .inr ⟨by decide, by decide⟩⟩, nofun⟩

theorem witness_StepKeepsMemoryForm :
    Memory.wf (about x26 20 12 0x4000 [(15, 9)]).mem ∧
    step (about x26 20 12 0x4000 [(15, 9)]) = .next (after (about x26 20 12 0x4000 [(15, 9)])) := ⟨by decide, rfl⟩

theorem witness_EqualMemoriesAreEqualData :
    Memory.wf [(3, 7#16)] ∧ ∀ a : Addr, Memory.read [(3, 7#16)] a = Memory.read [(3, 7#16)] a := ⟨by decide, fun _ => rfl⟩

/-- A run of one step that stores. -/
theorem witness_RunWritesOnlyTheWordAtMar :
    Host.Core.run Sys2Proof.core 1 (about x26 20 12 0x4000 []) = .next (after (about x26 20 12 0x4000 [])) := rfl

/-- R141, R142, R161: words of opcode 1, 2 and 0xA, the unused bits not zero. -/
theorem witness_opcode_hypotheses :
    (0x1FFF#16).extractLsb' 12 4 = 0x1#4 ∧ (0x257F#16).extractLsb' 12 4 = 0x2#4 ∧ (0xA87F#16).extractLsb' 12 4 = 0xA#4 := by
  decide

theorem witness_RunKeepsCond :
    Host.Core.run Sys2Proof.core 1 (about x26 20 12 0x6130 []) = .next (after (about x26 20 12 0x6130 [])) := rfl

theorem witness_DebugStreamIsAppendOnly :
    Host.Core.run Sys2Proof.core 1 (about x26 20 12 0xE000 []) = .next (after (about x26 20 12 0xE000 [])) := rfl

theorem witness_CondIsInvisible : step (about x26 20 12 0x6130 []) = .next (after (about x26 20 12 0x6130 [])) := rfl

theorem witness_FaultRecordAndDebugStreamAreNotRead :
    (about x26 20 12 0xE000 []).run = .running ∧ step (about x26 20 12 0xE000 []) = .next (after (about x26 20 12 0xE000 [])) ∧
    (after (about x26 20 12 0xE000 [])).run ≠ .faulted := ⟨by decide, rfl, by decide⟩

/-- Both clauses: a step of an instruction that writes a register, and of one that writes none. -/
theorem witness_StepWritesAtMostOneRegister :
    step (about x26 20 12 0x6130 []) = .next (after (about x26 20 12 0x6130 [])) ∧
    step skipper = .next (after skipper) ∧
    opcodeOf (skipper.memRead skipper.pc) ∉ [Op.loadc, .move, .loadm, .add, .sub, .mul, .div, .not] := ⟨rfl, rfl, by decide⟩

/-- The three kinds of clause: a JUMP, a compare, and another instruction. -/
theorem witness_NextPcIsOneOfFour :
    (jumper 0 0x5FFE).run = .running ∧ step (jumper 0 0x5FFE) = .next (after (jumper 0 0x5FFE)) ∧
    decode ((jumper 0 0x5FFE).memRead (jumper 0 0x5FFE).pc) = .jump 1#1 1023#10 ∧
    step skipper = .next (after skipper) ∧ decode (skipper.memRead skipper.pc) = .eqImm .r0 1#8 ∧
    step State.reset = .next (after State.reset) ∧ decode (State.reset.memRead State.reset.pc) = .halt :=
  ⟨by decide, rfl, by decide, rfl, by decide, rfl, by decide⟩

theorem witness_TransactionsOfAStep :
    (about x26 20 12 0x4003 []).run = .running ∧
    decode ((about x26 20 12 0x4003 []).memRead (about x26 20 12 0x4003 []).pc) = .storem .r0 3#9 ∧
    State.reset.halt.run ≠ .running := by decide

theorem witness_MemoryChangesByTransactionsOnly :
    step (about x26 20 12 0x4003 []) = .next (after (about x26 20 12 0x4003 [])) := rfl

theorem witness_StoreIsSeenByTheNextFetch :
    (about x26 20 21 0x4600 [(21, 0x5802)]).run = .running ∧
    decode ((about x26 20 21 0x4600 [(21, 0x5802)]).memRead (about x26 20 21 0x4600 [(21, 0x5802)]).pc) = .storem .r3 0#9 ∧
    (about x26 20 21 0x4600 [(21, 0x5802)]).mar = (about x26 20 21 0x4600 [(21, 0x5802)]).pc + 1#16 := by decide

theorem witness_ImageIsLoadedFromZero : [0x0002#16, 0x0007#16, 0x1000#16, 0x0000#16].length ≤ 65536 := by decide

theorem witness_AssembledImageHasOneStart :
    assemble [.const 7, .start, .instr .loadc [0, 0], .instr .halt []] =
      some [0x0002#16, 0x0007#16, 0x1000#16, 0x0000#16] := by decide

end Sys2Proof.Tests
end

section
/-! The operands (00_scope.md R9): `sext` is the library's sign extension, so its value as a natural number and as a
two's-complement integer is known for every field width up to the word's. -/

namespace Sys2Proof.Machine

/-- Setting bits 15 down to `b` of a negative field is extending its sign. -/
theorem sext_eq_signExtend {b : Nat} (v : BitVec b) : sext v = v.signExtend 16 := by
  have hones (i : Nat) (hi : i < 16) (hbi : b ≤ i) : (0xFFFF#16).getLsbD (i - b) = true := by
    rw [show 0xFFFF#16 = BitVec.allOnes 16 by decide, BitVec.getLsbD_allOnes]
    exact decide_eq_true (by omega)
  unfold sext
  cases hv : v.msb with
  | false => exact (BitVec.signExtend_eq_setWidth_of_msb_false hv).symm
  | true =>
    ext i hi
    by_cases hib : i < b
    · simp [BitVec.getElem_signExtend, hib]
    · simp [BitVec.getElem_signExtend, hib, hv, hones i hi (by omega)]

/-- The value of a sign-extended field modulo 65536. -/
theorem sext_eq_ofInt {b : Nat} (v : BitVec b) : sext v = BitVec.ofInt 16 v.toInt := sext_eq_signExtend v

/-- Sign extension keeps the two's-complement value. -/
theorem toInt_sext {b : Nat} (hb : b ≤ 16) (v : BitVec b) : (sext v).toInt = v.toInt := by
  rw [sext_eq_signExtend, BitVec.toInt_signExtend_of_le hb]

/-- R9: the field itself when its top bit is 0, `65536 - 2 ^ b` more when it is 1. -/
theorem toNat_sext {b : Nat} (hb : b ≤ 16) (v : BitVec b) :
    (sext v).toNat = if v.getLsbD (b - 1) then v.toNat + 65536 - 2 ^ b else v.toNat := by
  have hpow : 2 ^ b ≤ 2 ^ 16 := Nat.pow_le_pow_right (by decide) hb
  rw [sext_eq_signExtend, BitVec.toNat_signExtend, BitVec.toNat_setWidth_of_le hb, BitVec.msb_eq_getLsbD_last]
  split <;> omega

/-- R9: zero extension keeps the value. -/
theorem toNat_zext {b : Nat} (hb : b ≤ 16) (v : BitVec b) : (zext v).toNat = v.toNat :=
  BitVec.toNat_setWidth_of_le hb

/-- Settles O7: the three widths are below the word's, where `toNat_sext` and `toInt_sext` give the value. -/
theorem signExtensionValue : Obligations.SignExtensionValue := by
  refine ⟨fun b v hb => ?_, by decide, toNat_zext (by decide)⟩
  have hb16 : b ≤ 16 := by omega
  rw [toInt_sext hb16]
  exact ⟨toNat_sext hb16 v, v.le_toInt, v.toInt_le⟩

end Sys2Proof.Machine
end

section
/-! What the parameters of 00_scope.md R6 make of the instructions: the address and the frame of a store, the frame of a
skip, and COND after each kind of instruction. -/

namespace Sys2Proof.Machine

/-- R58: the MAPPED-WRITE path is MAR, plus the signed offset, modulo 65536, where STOREM_USES_OFFSET asks for it. -/
theorem mappedWrAddr_sext {b : Nat} (usesOffset : Bool) (s : State) (v : BitVec b) :
    mappedWrAddr usesOffset s (sext v) = if usesOffset then BitVec.ofInt 16 (s.mar.toNat + v.toInt) else s.mar := by
  simp [mappedWrAddr, sext_eq_ofInt, BitVec.ofInt_add]

/-- R52: a store puts its value at its address and leaves everything else as before. -/
theorem memWrite_frame (s : State) (a : Addr) (v : Word) :
    (s.memWrite a v).memRead a = v ∧ SameMemoryBut a s (s.memWrite a v) ∧ SameRegisters s (s.memWrite a v) ∧
    (s.memWrite a v).pc = s.pc ∧ SameSpecial s (s.memWrite a v) :=
  ⟨by simp, fun b hb => by simp [hb], fun _ => rfl, rfl, rfl, rfl, rfl, ⟨rfl, rfl, rfl⟩, rfl, rfl⟩

/-- R174: a compare writes PC alone, whether it skips or not. -/
theorem writesPcOnly_skipUnless (s : State) (holds : Bool) : WritesPcOnly s (s.skipUnless holds) := by
  cases holds <;> exact ⟨fun _ => rfl, ⟨rfl, rfl, rfl, ⟨rfl, rfl, rfl⟩, rfl, rfl⟩, fun _ => rfl⟩

/-- R29: after a register write, COND is the class of the value the register now holds, if the opcode is a flag writer. -/
theorem writeResult_cond_eq_flags (s : State) (p : Params) (o : Op) (d : Reg) (v : Word) :
    (s.writeResult p o d v).cond = if o ∈ p.flagWriters then flags ((s.writeResult p o d v).reg d) else s.cond := by
  simp [condAfter]

/-- R156, R160: an instruction with a divisor is a `divide` by it. -/
theorem execWith_of_divisor (p : Params) {i : Instr} {s : State} {b : Word} (h : divisor i s = some b) :
    ∃ dr sr1 : Reg, execWith p i s = divide p dr sr1 b s := by
  cases i with
  | divReg | divImm =>
    cases h
    exact ⟨_, _, rfl⟩
  | _ => cases h

/-- R160, R182: a DIV by 0 takes the DivisionByZero fault. -/
theorem execWith_of_divisor_zero (p : Params) {i : Instr} {s : State} (h : divisor i s = some 0#16) :
    execWith p i s = .next (s.raise .divisionByZero) := by
  obtain ⟨dr, sr1, hexec⟩ := execWith_of_divisor p h
  rw [hexec, divide_of_eq_zero]

/-- R22: an instruction with a destination, unless it is a DIV by 0, writes one value to it by `writeResult`. -/
theorem execWith_of_destination (p : Params) {i : Instr} {s : State} {d : Reg} (hd : destination i = some d)
    (hdiv : divisor i s ≠ some 0#16) : ∃ v : Word, execWith p i s = .next (s.writeResult p i.op d v) := by
  cases i with
  | divReg | divImm =>
    cases hd
    exact ⟨_, divide_of_ne (fun h => hdiv (congrArg some h)) p _ _ s⟩
  | loadc | move | loadm | addReg | addImm | subReg | subImm | mulReg | mulImm | not =>
    cases hd
    exact ⟨_, rfl⟩
  | _ => cases hd

/-- R22, R29: an instruction without a destination completes and leaves the general registers and COND as before. -/
theorem execWith_of_no_destination (p : Params) {i : Instr} (s : State) (hd : destination i = none) :
    ∃ t : State, execWith p i s = .next t ∧ t.regs = s.regs ∧ t.cond = s.cond := by
  cases i with
  | eqReg | eqImm | ltReg | ltImm | leReg | leImm =>
    exact ⟨_, rfl, State.skipUnless_regs s _, State.skipUnless_cond s _⟩
  | halt | storem | jump | dbg | unassigned => exact ⟨_, rfl, rfl, rfl⟩
  | _ => cases hd

/-- R29, R114, R162: every instruction completes, and COND is the class of the value written exactly after a flag writer
that writes a register. -/
theorem execWith_cond (p : Params) (i : Instr) (s : State) : ∃ t : State, execWith p i s = .next t ∧
    t.cond =
      match destination i with
      | some d => if i.op ∈ p.flagWriters ∧ divisor i s ≠ some 0#16 then flags (t.reg d) else s.cond
      | none => s.cond := by
  cases hd : destination i with
  | none =>
    obtain ⟨t, hexec, -, hcond⟩ := execWith_of_no_destination p s hd
    exact ⟨t, hexec, hcond⟩
  | some d =>
    by_cases hdiv : divisor i s = some 0#16
    · exact ⟨_, execWith_of_divisor_zero p hdiv, by simp [hdiv]⟩
    · obtain ⟨v, hexec⟩ := execWith_of_destination p hd hdiv
      exact ⟨_, hexec, by simpa [hdiv] using writeResult_cond_eq_flags s p i.op d v⟩

/-- R58, R144: STOREM stores the register at the MAPPED-WRITE address and does nothing else. -/
theorem execWith_storem (p : Params) (reg : Reg) (offset9 : BitVec 9) (s : State) :
    execWith p (.storem reg offset9) s =
      .next (s.memWrite (if p.storemUsesOffset then BitVec.ofInt 16 (s.mar.toNat + offset9.toInt) else s.mar)
        (s.reg reg)) := by
  rw [← mappedWrAddr_sext]
  rfl

/-- R172: LT writes PC alone, and skips unless the relation LT_SIGNED selects holds. -/
theorem compareLt_effect (p : Params) (lhs : Reg) (b : Word) (s : State) :
    ∃ t : State, compareLt p lhs b s = .next t ∧ WritesPcOnly s t ∧
      t.pc = if aluLess p.ltSigned (s.reg lhs) b then s.pc else s.pc + 1#16 :=
  ⟨_, rfl, writesPcOnly_skipUnless s _, State.skipUnless_pc s _⟩

/-- R173: LE writes PC alone, and skips unless the relation LE_IS_LT and LT_SIGNED select holds. -/
theorem compareLe_effect (p : Params) (lhs : Reg) (b : Word) (s : State) :
    ∃ t : State, compareLe p lhs b s = .next t ∧ WritesPcOnly s t ∧
      t.pc = if aluLessEq p.leIsLt p.ltSigned (s.reg lhs) b then s.pc else s.pc + 1#16 :=
  ⟨_, rfl, writesPcOnly_skipUnless s _, State.skipUnless_pc s _⟩

/-- Settles O60: one lemma for each parameter's effect; COND_ENC and the field positions by the definitions. -/
theorem everyParameterHasItsEffect : Obligations.EveryParameterHasItsEffect := by
  intro p s
  refine ⟨fun reg offset9 => ⟨_, execWith_storem p reg offset9 s, memWrite_frame s _ _⟩,
    fun lhs sr2 => ⟨compareLt_effect p lhs _ s, compareLe_effect p lhs _ s⟩,
    fun lhs imm8 => ?_, fun i => execWith_cond p i s, ?_, rfl⟩
  · rw [← sext_eq_ofInt imm8]
    exact ⟨compareLt_effect p lhs _ s, compareLe_effect p lhs _ s⟩
  · cases hc : s.cond <;> simp [State.condWord, condPattern, hc]

end Sys2Proof.Machine
end

section
/-! What one instruction can do to the state after the fetch (40_execution_cycle.md R114, R115), said once: eight shapes
of effect, and what each leaves as before. -/

namespace Sys2Proof.Machine

/-- R81, R113: the instruction decoded carries the opcode of its word. -/
theorem op_decode (w : Word) : (decode w).op = opcodeOf w := by
  unfold decode decodeWith
  cases opcodeOf w with
  | add | sub | mul | div =>
    simp only [decodeAlu]
    split <;> rfl
  | eq | lt | le =>
    simp only [decodeCmp]
    split <;> rfl
  | _ => rfl

/-- The effects an instruction can have on the state `s` after the fetch, `t` being the state it leaves: which
instructions have each one, and what it writes. -/
inductive Effect (i : Instr) (s : State) : State → Prop where
  /-- One general register is written (R22). -/
  | write (d : Reg) (v : Word) (hd : destination i = some d) (hdiv : divisor i s ≠ some 0#16) :
    Effect i s (s.writeResult params i.op d v)
  /-- STOREM writes the word at MAR (R144). -/
  | store (v : Word) (hop : i.op = .storem) : Effect i s (s.memWrite s.mar v)
  /-- JUMP writes PC (R150). -/
  | jump (sign : BitVec 1) (offset : BitVec 10) (hi : i = .jump sign offset) :
    Effect i s (s.setPc (jumpTarget s.pc sign offset))
  /-- A compare skips a word or does nothing (R174). -/
  | compare (holds : Bool) (hop : i.op = .eq ∨ i.op = .lt ∨ i.op = .le) : Effect i s (s.skipUnless holds)
  /-- HALT (R130). -/
  | halt (hop : i.op = .halt) : Effect i s s.halt
  /-- DBG (R131). -/
  | dbg (hop : i.op = .dbg) : Effect i s s.dbgEmit
  /-- The unassigned opcode faults (R132, R181). -/
  | unknownOpcode (hop : i.op = .unassigned) : Effect i s (s.raise .unknownOpcode)
  /-- DIV by 0 faults (R160, R182). -/
  | divisionByZero (hdiv : divisor i s = some 0#16) : Effect i s (s.raise .divisionByZero)

/-- R114: every instruction completes with one of the eight effects. -/
theorem exec_effect (i : Instr) (s : State) : ∃ t : State, exec i s = .next t ∧ Effect i s t := by
  cases hd : destination i with
  | some d =>
    by_cases hdiv : divisor i s = some 0#16
    · exact ⟨_, execWith_params i s ▸ execWith_of_divisor_zero params hdiv, .divisionByZero hdiv⟩
    · obtain ⟨v, hexec⟩ := execWith_of_destination params hd hdiv
      exact ⟨_, execWith_params i s ▸ hexec, .write d v hd hdiv⟩
  | none =>
    cases i with
    | storem => exact ⟨_, rfl, .store _ rfl⟩
    | jump sign offset => exact ⟨_, rfl, .jump sign offset rfl⟩
    | eqReg | eqImm => exact ⟨_, rfl, .compare _ (.inl rfl)⟩
    | ltReg | ltImm => exact ⟨_, rfl, .compare _ (.inr (.inl rfl))⟩
    | leReg | leImm => exact ⟨_, rfl, .compare _ (.inr (.inr rfl))⟩
    | halt => exact ⟨_, rfl, .halt rfl⟩
    | dbg => exact ⟨_, rfl, .dbg rfl⟩
    | unassigned => exact ⟨_, rfl, .unknownOpcode rfl⟩
    | _ => cases hd

/-- R110, R116: a step of a stopped machine changes nothing; a step of a running one has an effect of the instruction
the word at PC decodes to. -/
theorem step_cases {s t : State} (h : step s = .next t) :
    (s.run ≠ .running ∧ t = s) ∨ (s.run = .running ∧ Effect (decode (s.memRead s.pc)) s.fetch t) := by
  by_cases hrun : s.run = .running
  · obtain ⟨u, hexec, heffect⟩ := exec_effect (decode s.fetch.ir) s.fetch
    rw [step_of_running hrun, hexec] at h
    cases h
    exact .inr ⟨hrun, heffect⟩
  · rw [step_of_not_running hrun] at h
    cases h
    exact .inl ⟨hrun, rfl⟩

/-- A step of a running machine has an effect of the instruction the word at PC decodes to. -/
theorem step_effect {s t : State} (hrun : s.run = .running) (h : step s = .next t) :
    Effect (decode (s.memRead s.pc)) s.fetch t := by
  obtain ⟨hstopped, -⟩ | ⟨-, heffect⟩ := step_cases h
  · exact absurd hrun hstopped
  · exact heffect

/-- R22: the opcodes that write a general register. -/
theorem destination_eq_none_iff (i : Instr) :
    destination i = none ↔ i.op ∉ [Op.loadc, .move, .loadm, .add, .sub, .mul, .div, .not] := by
  cases i <;> simp [destination, Instr.op]

/-- An instruction with a destination has one of those opcodes. -/
theorem op_mem_of_destination {i : Instr} {d : Reg} (hd : destination i = some d) :
    i.op ∈ [Op.loadc, .move, .loadm, .add, .sub, .mul, .div, .not] := by
  by_contra hop
  simp [(destination_eq_none_iff i).mpr hop] at hd

/-- An instruction that writes a register is neither HALT nor the unassigned opcode. -/
theorem op_ne_of_destination {i : Instr} {d : Reg} (hd : destination i = some d) : i.op ≠ .halt ∧ i.op ≠ .unassigned := by
  have hop := op_mem_of_destination hd
  constructor <;> intro h <;> simp [h] at hop

/-- R160: only a DIV has a divisor. -/
theorem op_of_divisor {i : Instr} {s : State} {b : Word} (h : divisor i s = some b) : i.op = .div := by
  cases i with
  | divReg | divImm => rfl
  | _ => cases h

/-- R160: an instruction of another opcode than DIV has no divisor. -/
theorem divisor_ne_of_op {i : Instr} {s : State} (hop : i.op ≠ .div) (b : Word) : divisor i s ≠ some b :=
  fun h => hop (op_of_divisor h)

/-- R156: a divisor is read from the general registers and the instruction alone. -/
theorem divisor_congr {s t : State} (h : t.regs = s.regs) (i : Instr) : divisor i t = divisor i s := by
  cases i with
  | divReg _ _ sr2 => exact congrArg some (State.reg_congr h sr2)
  | _ => rfl

section
variable {i : Instr} {s t : State}

/-- R33: no instruction writes MAR. -/
theorem Effect.mar (h : Effect i s t) : t.mar = s.mar := by
  cases h <;> simp

/-- R29, D9: no instruction writes COND. -/
theorem Effect.cond (h : Effect i s t) : t.cond = s.cond := by
  cases h <;> simp

/-- R58, R144: no word but the one at MAR is written. -/
theorem Effect.sameMemoryBut (h : Effect i s t) : SameMemoryBut s.mar s t := by
  intro a ha
  cases h with
  | store => simp [ha]
  | _ => simp

/-- R38: the debug stream gains at most one record, at its end. -/
theorem Effect.dbg_append (h : Effect i s t) : ∃ l : List DbgRecord, t.dbg = s.dbg ++ l ∧ l.length ≤ 1 := by
  cases h with
  | dbg => exact ⟨_, State.dbgEmit_dbg s, by simp⟩
  | _ => exact ⟨[], by simp⟩

/-- R22: the general registers are as before, or one of them, the destination, has a new value. -/
theorem Effect.regs_cases (h : Effect i s t) :
    t.regs = s.regs ∨ ∃ (d : Reg) (v : Word), destination i = some d ∧ t.regs = s.regs.set d v := by
  cases h with
  | write d v hd => exact .inr ⟨d, v, hd, rfl⟩
  | _ => exact .inl (by simp)

/-- R25: only JUMP and the compares move PC on from the post-increment value. -/
theorem Effect.pc_eq (h : Effect i s t) (hop : i.op ∉ [Op.jump, .eq, .lt, .le]) : t.pc = s.pc := by
  cases h with
  | jump sign offset hi => simp [hi, Instr.op] at hop
  | compare holds hcmp =>
    simp only [List.mem_cons] at hop
    tauto
  | _ => simp

/-- R150: a JUMP leaves PC at its target. -/
theorem Effect.pc_jump {sign : BitVec 1} {offset : BitVec 10} (h : Effect (.jump sign offset) s t) :
    t.pc = jumpTarget s.pc sign offset := by
  cases h with
  | jump sign' offset' hi =>
    cases hi
    rfl
  | write d v hd => cases hd
  | compare holds hop => simp [Instr.op] at hop
  | divisionByZero hdiv => cases hdiv
  | store v hop | halt hop | dbg hop | unknownOpcode hop => cases hop

/-- R174: a compare leaves PC as it is or one word further. -/
theorem Effect.pc_compare (h : Effect i s t) (hop : i.op = .eq ∨ i.op = .lt ∨ i.op = .le) :
    t.pc = s.pc ∨ t.pc = s.pc + 1#16 := by
  cases h with
  | compare holds => cases holds <;> simp
  | jump sign offset hi => simp [hi, Instr.op] at hop
  | _ => exact .inl (by simp)

/-- R130: HALT, and no other instruction, ends a run HALTED. -/
theorem Effect.halted_iff (h : Effect i s t) (hrun : s.run = .running) : t.run = .halted ↔ i.op = .halt := by
  cases h with
  | write d v hd => simp [hrun, op_ne_of_destination hd]
  | jump sign offset hi => simp [hrun, hi, Instr.op]
  | compare holds hop => obtain hop | hop | hop := hop <;> simp [hrun, hop]
  | divisionByZero hdiv => simp [op_of_divisor hdiv]
  | store v hop | halt hop | dbg hop | unknownOpcode hop => simp [hrun, hop]

/-- R180: the unassigned opcode and a DIV by 0, and nothing else, end a run FAULTED. -/
theorem Effect.faulted_iff (h : Effect i s t) (hrun : s.run = .running) :
    t.run = .faulted ↔ i.op = .unassigned ∨ divisor i s = some 0#16 := by
  cases h with
  | write d v hd hdiv => simp [hrun, op_ne_of_destination hd, hdiv]
  | jump sign offset hi => simp [hrun, hi, Instr.op, divisor]
  | compare holds hop => obtain hop | hop | hop := hop <;> simp [hrun, hop, divisor_ne_of_op]
  | divisionByZero hdiv => simp [hdiv]
  | store v hop | halt hop | dbg hop | unknownOpcode hop => simp [hrun, hop, divisor_ne_of_op]
end

end Sys2Proof.Machine
end

section
/-! Runs (40_execution_cycle.md R117): induction over the number of steps, and what a program can never change. -/

namespace Sys2Proof.Machine

/-- R114: every step completes. -/
theorem step_completes (s : State) : ∃ t : State, step s = .next t := by
  by_cases hrun : s.run = .running
  · obtain ⟨t, hexec, -⟩ := exec_effect (decode s.fetch.ir) s.fetch
    exact ⟨t, (step_of_running hrun).trans hexec⟩
  · exact ⟨s, step_of_not_running hrun⟩

/-- A run of one step more is a step and then the run. -/
theorem run_succ {s u : State} (h : step s = .next u) (k : Nat) :
    Host.Core.run core (k + 1) s = Host.Core.run core k u := by
  have hcore : core.step s = .next u := h
  simp only [Host.Core.run, hcore]

/-- A relation that relates every state to itself for 0 steps, and that one more step at the front keeps, relates the start
and the end of every run. -/
theorem run_induction {P : Nat → State → State → Prop} (hnil : ∀ s : State, P 0 s s)
    (hstep : ∀ (k : Nat) (s u t : State), step s = .next u → P k u t → P (k + 1) s t) {k : Nat} {s t : State}
    (h : Host.Core.run core k s = .next t) : P k s t := by
  induction k generalizing s with
  | zero =>
    cases h
    exact hnil _
  | succ k ih =>
    obtain ⟨u, hu⟩ := step_completes s
    exact hstep k s u t hu (ih (run_succ hu k ▸ h))

section
variable {s t : State}

/-- R33, R58, R144: a step keeps MAR and every word but the one at MAR. -/
theorem step_writes_only_at_mar (h : step s = .next t) : t.mar = s.mar ∧ SameMemoryBut s.mar s t := by
  obtain ⟨-, rfl⟩ | ⟨-, heffect⟩ := step_cases h
  · exact ⟨rfl, fun _ _ => rfl⟩
  · exact ⟨heffect.mar, heffect.sameMemoryBut⟩

/-- R29, D9: a step keeps COND. -/
theorem step_cond (h : step s = .next t) : t.cond = s.cond := by
  obtain ⟨-, rfl⟩ | ⟨-, heffect⟩ := step_cases h
  · rfl
  · exact heffect.cond

/-- R38: a step adds at most one record, at the end of the debug stream. -/
theorem step_dbg_append (h : step s = .next t) : ∃ l : List DbgRecord, t.dbg = s.dbg ++ l ∧ l.length ≤ 1 := by
  obtain ⟨-, rfl⟩ | ⟨-, heffect⟩ := step_cases h
  · exact ⟨[], by simp⟩
  · exact heffect.dbg_append
end

/-- Settles O44: MAR is fixed, so the word at MAR is the same word in every step of the run, and each keeps the rest. -/
theorem runWritesOnlyTheWordAtMar : Obligations.RunWritesOnlyTheWordAtMar := by
  intro k s t
  refine run_induction (P := fun _ s t => t.mar = s.mar ∧ SameMemoryBut s.mar s t)
    (fun _ => ⟨rfl, fun _ _ => rfl⟩) (fun k s u t hstep htail => ?_)
  obtain ⟨hmar, hmem⟩ := step_writes_only_at_mar hstep
  obtain ⟨hmar', hmem'⟩ := htail
  exact ⟨hmar'.trans hmar, fun a ha => (hmem' a (hmar ▸ ha)).trans (hmem a ha)⟩

/-- Settles O45: each step of the run keeps COND. -/
theorem runKeepsCond : Obligations.RunKeepsCond := by
  intro k s t
  exact run_induction (P := fun _ s t => t.cond = s.cond) (fun _ => rfl)
    (fun _ _ _ _ hstep htail => htail.trans (step_cond hstep))

/-- Settles O48: the records of the first step, then those of the rest of the run. -/
theorem debugStreamIsAppendOnly : Obligations.DebugStreamIsAppendOnly := by
  intro k s t
  refine run_induction (P := fun k s t => ∃ l : List DbgRecord, t.dbg = s.dbg ++ l ∧ l.length ≤ k)
    (fun _ => ⟨[], by simp⟩) (fun k s u t hstep htail => ?_)
  obtain ⟨l, hl, hlen⟩ := step_dbg_append hstep
  obtain ⟨l', hl', hlen'⟩ := htail
  refine ⟨l ++ l', by rw [hl', hl, List.append_assoc], ?_⟩
  rw [List.length_append]
  omega

end Sys2Proof.Machine
end

section
/-! What one step can do to the run state, the fault record, the general registers and PC. -/

namespace Sys2Proof.Machine

/-- Settles O37: the effect of the word at PC says how the run goes on. -/
theorem onlyHaltAndTwoFaultsEndARun : Obligations.OnlyHaltAndTwoFaultsEndARun := by
  intro s t hrun h
  have heffect := step_effect hrun h
  rw [← op_decode, ← divisor_congr (State.fetch_regs s)]
  exact ⟨heffect.halted_iff hrun, heffect.faulted_iff hrun⟩

/-- A running machine's invariant is its clear fault record. -/
theorem stopExplained_of_running {s : State} (hrun : s.run = .running)
    (hclear : s.faultCause = .none ∧ s.faultIr = 0#16 ∧ s.faultPc = 0#16) : StopExplained s :=
  ⟨fun _ => hclear, by simp [hrun], by simp [hrun]⟩

/-- R130: a HALT leaves the record clear, and the word just before PC is the HALT. -/
theorem stopExplained_halt {s : State} (hclear : s.faultCause = .none ∧ s.faultIr = 0#16 ∧ s.faultPc = 0#16)
    (hop : opcodeOf (s.memRead s.pc) = .halt) : StopExplained s.fetch.halt :=
  ⟨fun _ => hclear, nofun, fun _ => by simpa using hop⟩

/-- R181, R182, R185, R186: a fault records the word it is about and the address it was fetched from. -/
theorem stopExplained_raise {s : State} {cause : FaultCause}
    (hcause : cause = .unknownOpcode ∧ opcodeOf (s.memRead s.pc) = .unassigned ∨
      cause = .divisionByZero ∧ divisor (decode (s.memRead s.pc)) s.fetch = some 0#16) :
    StopExplained (s.fetch.raise cause) := by
  refine ⟨fun h => absurd rfl h, fun _ => ⟨by simp, by simp, ?_⟩, nofun⟩
  rw [divisor_congr (State.raise_regs s.fetch cause)]
  exact hcause

/-- Settles O39: a stopped machine is unchanged; from a running one, whose record is clear, only HALT and the two faults
change the run state or the record. -/
theorem stepKeepsStopExplained : Obligations.StepKeepsStopExplained := by
  intro s t hinv h
  obtain ⟨-, rfl⟩ | ⟨hrun, heffect⟩ := step_cases h
  · exact hinv
  obtain ⟨hclear, -, -⟩ := hinv
  replace hclear := hclear (by simp [hrun])
  cases heffect with
  | write | store | jump | compare | dbg => exact stopExplained_of_running (by simpa using hrun) (by simpa using hclear)
  | halt hop => exact stopExplained_halt hclear (op_decode _ ▸ hop)
  | unknownOpcode hop => exact stopExplained_raise (.inl ⟨rfl, op_decode _ ▸ hop⟩)
  | divisionByZero hdiv => exact stopExplained_raise (.inr ⟨rfl, hdiv⟩)

/-- Settles O40: power-up is RUNNING with a clear record. -/
theorem resetStopExplained : Obligations.ResetStopExplained :=
  ⟨fun _ _ _ => stopExplained_of_running rfl ⟨rfl, rfl, rfl⟩, stopExplained_of_running rfl ⟨rfl, rfl, rfl⟩⟩

/-- Settles O49: the register written, if any, is the destination of the word at PC. -/
theorem stepWritesAtMostOneRegister : Obligations.StepWritesAtMostOneRegister := by
  intro s t h
  obtain ⟨-, rfl⟩ | ⟨-, heffect⟩ := step_cases h
  · exact ⟨⟨.r0, fun _ _ => rfl⟩, fun _ _ => rfl⟩
  obtain hregs | ⟨d, v, hd, hregs⟩ := heffect.regs_cases
  · have hsame : SameRegisters s t := State.reg_congr hregs
    exact ⟨⟨.r0, fun r _ => hsame r⟩, fun _ => hsame⟩
  · refine ⟨⟨d, fun r hr => ?_⟩, fun hop => absurd (op_mem_of_destination hd) (op_decode _ ▸ hop)⟩
    rw [State.reg_def, hregs, Regs.get_set, if_neg hr]
    rfl

/-- Settles O50: by the kind of instruction the word at PC is. -/
theorem nextPcIsOneOfFour : Obligations.NextPcIsOneOfFour := by
  intro s t hrun h
  have heffect := step_effect hrun h
  have hcompare := heffect.pc_compare
  have hother := heffect.pc_eq
  cases hi : decode (s.memRead s.pc) with
  | jump sign offset => exact (hi ▸ heffect).pc_jump
  | eqReg | eqImm | ltReg | ltImm | leReg | leImm =>
    rw [State.fetch_pc, BitVec.add_assoc] at hcompare
    exact hcompare (by simp [hi, Instr.op])
  | _ => exact hother (by simp [hi, Instr.op])

end Sys2Proof.Machine
end

section
/-! What no instruction reads (10_state.md R30, R35, R38): COND, the fault record, the debug stream, and the IR of an
earlier step. An instruction does the same whatever they hold. -/

namespace Sys2Proof.Machine

/-- R36: the fetch overwrites the IR. -/
theorem step_setIr {s : State} (hrun : s.run = .running) (w : Word) : step (s.setIr w) = step s := by
  rw [step_of_running hrun, step_of_running (s := s.setIr w) hrun]
  rfl

/-- Settles O12: the replaced IR is `State.setIr`. -/
theorem oldIrHasNoEffect : Obligations.OldIrHasNoEffect := fun _ w hrun => step_setIr hrun w

section
variable {i : Instr} {s t : State} (c : Cond)

/-- A skip does not depend on COND. -/
theorem skipUnless_setCond (s : State) (holds : Bool) :
    (s.setCond c).skipUnless holds = (s.skipUnless holds).setCond c := by
  cases holds <;> rfl

/-- A DIV does the same under every COND, whether it faults or not. -/
theorem divide_setCond {dr sr1 : Reg} {b : Word} (h : divide params dr sr1 b s = .next t) :
    divide params dr sr1 b (s.setCond c) = .next (t.setCond c) := by
  obtain ⟨hb, hdiv⟩ | ⟨rfl, hdiv⟩ := divide_cases params dr sr1 b s
  · cases hdiv.symm.trans h
    exact divide_of_ne hb params dr sr1 (s.setCond c)
  · cases hdiv.symm.trans h
    exact divide_of_eq_zero params dr sr1 (s.setCond c)

/-- R30: no instruction reads COND, and under the default FLAG_WRITERS none writes it. -/
theorem exec_setCond (h : exec i s = .next t) : exec i (s.setCond c) = .next (t.setCond c) := by
  cases i with
  | divReg | divImm => exact divide_setCond c h
  | eqReg | eqImm | ltReg | ltImm | leReg | leImm =>
    cases h
    exact congrArg _ (skipUnless_setCond c s _)
  | _ =>
    cases h
    rfl

/-- R30: no step reads or writes COND. -/
theorem step_setCond (h : step s = .next t) : step (s.setCond c) = .next (t.setCond c) := by
  by_cases hrun : s.run = .running
  · rw [step_of_running hrun] at h
    rw [step_of_running (s := s.setCond c) hrun]
    exact exec_setCond c h
  · rw [step_of_not_running hrun] at h
    rw [step_of_not_running (s := s.setCond c) hrun]
    cases h
    rfl
end

/-- Settles O46: the state with another COND is `State.setCond`. -/
theorem condIsInvisible : Obligations.CondIsInvisible := fun _ _ c => step_setCond c

/-- The fault record (R35) and the debug stream (R38), in one piece. -/
structure Log where
  cause : FaultCause
  faultIr : Word
  faultPc : Word
  dbg : List DbgRecord

/-- The state with another fault record and debug stream. -/
def State.withLog (s : State) (g : Log) : State :=
  { s with faultCause := g.cause, faultIr := g.faultIr, faultPc := g.faultPc, dbg := g.dbg }

/-- The same fault record, and more records at the end of the debug stream. -/
def Log.append (g : Log) (l : List DbgRecord) : Log := { g with dbg := g.dbg ++ l }

/-- What an instruction does, adding records to the debug stream, it does whatever the log `g` held before. -/
def LogIsNotRead (i : Instr) (s t : State) (g : Log) : Prop :=
  ∃ l : List DbgRecord, t.dbg = s.dbg ++ l ∧ exec i (s.withLog g) = .next (t.withLog (g.append l))

section
variable {i : Instr} {s t : State} (g : Log)

/-- An instruction that adds no record. -/
theorem logIsNotRead_of_dbg_eq (hdbg : t.dbg = s.dbg) (hexec : exec i (s.withLog g) = .next (t.withLog g)) :
    LogIsNotRead i s t g :=
  ⟨[], by rw [hdbg, List.append_nil], by rwa [Log.append, List.append_nil]⟩

/-- A skip does not depend on the log. -/
theorem skipUnless_withLog (s : State) (holds : Bool) :
    (s.withLog g).skipUnless holds = (s.skipUnless holds).withLog g := by
  cases holds <;> rfl

/-- A DIV that does not fault writes its quotient, whatever the log holds. -/
theorem divide_withLog {dr sr1 : Reg} {b : Word} (h : divide params dr sr1 b s = .next t) (hrun : t.run ≠ .faulted) :
    t.dbg = s.dbg ∧ divide params dr sr1 b (s.withLog g) = .next (t.withLog g) := by
  obtain ⟨hb, hdiv⟩ | ⟨-, hdiv⟩ := divide_cases params dr sr1 b s
  · cases hdiv.symm.trans h
    exact ⟨rfl, divide_of_ne hb params dr sr1 (s.withLog g)⟩
  · cases hdiv.symm.trans h
    exact absurd rfl hrun

/-- R35, R38: no instruction reads the fault record or the debug stream, and unless it faults, of the two, it writes the
debug stream alone. -/
theorem exec_withLog (hexec : exec i s = .next t) (hrun : t.run ≠ .faulted) : LogIsNotRead i s t g := by
  cases i with
  | unassigned =>
    cases hexec
    exact absurd rfl hrun
  | dbg =>
    cases hexec
    exact ⟨_, rfl, rfl⟩
  | divReg | divImm =>
    obtain ⟨hdbg, hdiv⟩ := divide_withLog g hexec hrun
    exact logIsNotRead_of_dbg_eq g hdbg hdiv
  | eqReg | eqImm | ltReg | ltImm | leReg | leImm =>
    cases hexec
    exact logIsNotRead_of_dbg_eq g (State.skipUnless_dbg s _) (congrArg _ (skipUnless_withLog g s _))
  | _ =>
    cases hexec
    exact logIsNotRead_of_dbg_eq g rfl rfl
end

/-- Settles O47: the step fetches the same word, and the instruction does the same. -/
theorem faultRecordAndDebugStreamAreNotRead : Obligations.FaultRecordAndDebugStreamAreNotRead := by
  intro s t cause w a d hrun h hfault
  rw [step_of_running hrun] at h
  obtain ⟨l, hl, hexec⟩ := exec_withLog ⟨cause, w, a, d⟩ h hfault
  exact ⟨l, hl, (step_of_running (s := s.withLog ⟨cause, w, a, d⟩) hrun).trans hexec⟩

end Sys2Proof.Machine
end

section
/-! The instructions of 42_data_movement.md and 44_alu.md that write a general register, and DBG: their words, what they
write, and that nothing else changes. -/

namespace Sys2Proof.Machine

/-- R22: a register write is the whole effect: the destination holds the value, everything else is as before. -/
theorem writeResult_frame (s : State) (o : Op) (d : Reg) (v : Word) :
    (s.writeResult params o d v).reg d = v ∧ WritesOnly d s (s.writeResult params o d v) :=
  ⟨by simp, fun r hr => by simp [hr], rfl, ⟨rfl, rfl, rfl, ⟨rfl, rfl, rfl⟩, rfl, rfl⟩, fun _ => rfl⟩

/-- R53, R56: the POOL path as an integer, modulo 65536. -/
theorem poolAddr_sext {b : Nat} (v : BitVec b) : poolAddr (sext v) = BitVec.ofInt 16 (v.toInt + 1) := by
  rw [poolAddr, sext_eq_ofInt, BitVec.ofInt_add]
  rfl

/-- R53, R57: the MAPPED-READ path as an integer, modulo 65536. -/
theorem mappedRdAddr_sext {b : Nat} (s : State) (v : BitVec b) :
    mappedRdAddr s (sext v) = BitVec.ofInt 16 (s.mar.toNat + v.toInt) := by
  simp [mappedRdAddr, sext_eq_ofInt, BitVec.ofInt_add]

/-- A field at bit 0 is placed by extending it with zeros. -/
theorem place_zero {len : Nat} (v : BitVec len) : place v 0 = v.setWidth 16 := BitVec.shiftLeft_zero _

/-- Settles O16: the decoder's arm, the POOL address as an integer, and the frame of a register write. -/
theorem loadcReadsThePool : Obligations.LoadcReadsThePool := by
  refine ⟨fun w hw => ?_, fun reg const9 => ⟨?_, fun s => ?_⟩⟩
  · have hop : opcodeOf w = .loadc := congrArg Op.ofCode hw
    rw [decode, decodeWith, hop]
    rfl
  · rw [← place_zero const9]
    rfl
  · rw [← poolAddr_sext]
    exact ⟨_, rfl, writeResult_frame s .loadc reg _⟩

/-- Settles O17: the decoder's arm and the frame of a register write. -/
theorem moveCopiesARegister : Obligations.MoveCopiesARegister := by
  refine ⟨fun w hw => ?_, fun src dst => ⟨rfl, fun s => ⟨_, rfl, writeResult_frame s .move dst _⟩⟩⟩
  have hop : opcodeOf w = .move := congrArg Op.ofCode hw
  rw [decode, decodeWith, hop]
  rfl

/-- Settles O18: the MAPPED-READ address as an integer and the frame of a register write. -/
theorem loadmReadsTheMappedWindow : Obligations.LoadmReadsTheMappedWindow := by
  refine fun reg offset9 => ⟨?_, fun s => ?_⟩
  · rw [← place_zero offset9]
    rfl
  · rw [← mappedRdAddr_sext]
    exact ⟨_, rfl, writeResult_frame s .loadm reg _⟩

/-- R87: the immediate form of format A, IMM_FLAG written into the constant part `c` of the word. -/
theorem encodeAluImm_eq {o : Op} {c : Word} (hc : placeOp o ||| 0x0100#16 = c) (dr sr1 : Reg) (imm5 : BitVec 5) :
    encodeAluImm o dr sr1 imm5 =
      c ||| dr.toBits.setWidth 16 <<< 9 ||| sr1.toBits.setWidth 16 <<< 5 ||| imm5.setWidth 16 := by
  have hflag : place 1#1 8 = 0x0100#16 := by decide
  rw [encodeAluImm, hflag, place_zero, ← hc, BitVec.or_assoc (placeOp o), BitVec.or_comm (placeReg dr 9),
    ← BitVec.or_assoc]
  rfl

section
variable (s : State) (dr sr1 : Reg) (b : Word)

/-- R157: the sum, for either second operand `b`. -/
theorem add_effect : ∃ t : State, arith params .add aluAdd dr sr1 b s = .next t ∧
    (t.reg dr).toNat = ((s.reg sr1).toNat + b.toNat) % 65536 ∧ WritesOnly dr s t := by
  obtain ⟨hval, hframe⟩ := writeResult_frame s .add dr (aluAdd (s.reg sr1) b)
  exact ⟨_, arith_eq .., by rw [hval]; exact BitVec.toNat_add .., hframe⟩

/-- R158: the difference, for either second operand `b`. -/
theorem sub_effect : ∃ t : State, arith params .sub aluSub dr sr1 b s = .next t ∧
    ((t.reg dr).toNat : Int) = ((s.reg sr1).toNat - b.toNat : Int) % 65536 ∧ WritesOnly dr s t := by
  obtain ⟨hval, hframe⟩ := writeResult_frame s .sub dr (aluSub (s.reg sr1) b)
  refine ⟨_, arith_eq .., ?_, hframe⟩
  rw [hval, aluSub, BitVec.toNat_sub]
  have hb := b.isLt
  omega

/-- R159: the low 16 bits of the product, for either second operand `b`. -/
theorem mul_effect : ∃ t : State, arith params .mul aluMul dr sr1 b s = .next t ∧
    (t.reg dr).toNat = ((s.reg sr1).toNat * b.toNat) % 65536 ∧ WritesOnly dr s t := by
  obtain ⟨hval, hframe⟩ := writeResult_frame s .mul dr (aluMul (s.reg sr1) b)
  exact ⟨_, arith_eq .., by rw [hval]; exact BitVec.toNat_mul .., hframe⟩

/-- R160: the unsigned quotient, for either second operand `b` that is not 0. -/
theorem div_effect {b : Word} (hb : b ≠ 0#16) : ∃ t : State, divide params dr sr1 b s = .next t ∧
    (t.reg dr).toNat = (s.reg sr1).toNat / b.toNat ∧ WritesOnly dr s t := by
  obtain ⟨hval, hframe⟩ := writeResult_frame s .div dr ((s.reg sr1).udiv b)
  exact ⟨_, divide_of_ne hb .., by rw [hval]; exact BitVec.toNat_udiv, hframe⟩
end

/-- An immediate other than 0 is not 0 sign-extended. -/
theorem sext_ne_zero {v : BitVec 5} (hv : v ≠ 0#5) : sext v ≠ 0#16 := by
  revert v
  decide

/-- Settles O22: `add_effect` at the register and at the sign-extended immediate. -/
theorem addIsTheSumModulo65536 : Obligations.AddIsTheSumModulo65536 := by
  refine ⟨fun dr sr1 sr2 => ⟨rfl, fun s => add_effect s dr sr1 (s.reg sr2)⟩, fun dr sr1 imm5 => ?_⟩
  rw [← sext_eq_ofInt]
  exact ⟨encodeAluImm_eq (by decide) dr sr1 imm5, fun s => add_effect s dr sr1 (sext imm5)⟩

/-- Settles O23: `sub_effect` at the register and at the sign-extended immediate. -/
theorem subIsTheDifferenceModulo65536 : Obligations.SubIsTheDifferenceModulo65536 := by
  refine ⟨fun dr sr1 sr2 => ⟨rfl, fun s => sub_effect s dr sr1 (s.reg sr2)⟩, fun dr sr1 imm5 => ?_⟩
  rw [← sext_eq_ofInt]
  exact ⟨encodeAluImm_eq (by decide) dr sr1 imm5, fun s => sub_effect s dr sr1 (sext imm5)⟩

/-- Settles O24: `mul_effect` at the register and at the sign-extended immediate. -/
theorem mulIsTheProductModulo65536 : Obligations.MulIsTheProductModulo65536 := by
  refine ⟨fun dr sr1 sr2 => ⟨rfl, fun s => mul_effect s dr sr1 (s.reg sr2)⟩, fun dr sr1 imm5 => ?_⟩
  rw [← sext_eq_ofInt]
  exact ⟨encodeAluImm_eq (by decide) dr sr1 imm5, fun s => mul_effect s dr sr1 (sext imm5)⟩

/-- Settles O25: `div_effect` at the register and at the sign-extended immediate, which is 0 for the immediate 0 only. -/
theorem divIsTheUnsignedQuotient : Obligations.DivIsTheUnsignedQuotient := by
  refine ⟨fun dr sr1 sr2 => ⟨rfl, fun s => div_effect s dr sr1⟩, fun dr sr1 imm5 => ?_⟩
  rw [← sext_eq_ofInt]
  exact ⟨encodeAluImm_eq (by decide) dr sr1 imm5, fun s himm => div_effect s dr sr1 (sext_ne_zero himm)⟩

/-- Settles O33: the record is the one `State.dbgEmit` appends. -/
theorem dbgAppendsOneRecord : Obligations.DbgAppendsOneRecord :=
  ⟨by decide, fun s => ⟨s.dbgEmit, ⟨s.pc, s.regs⟩, rfl, State.dbgEmit_dbg s, rfl, fun _ => rfl, fun _ => rfl, rfl, rfl, rfl,
    rfl, ⟨rfl, rfl, rfl⟩, rfl, fun _ => rfl⟩⟩

end Sys2Proof.Machine
end

section
/-! Power-up (10_state.md R42) and the classes of R29. -/

namespace Sys2Proof.Machine

/-- Settles O13: each value is the one `State.boot` is given or R42 states. -/
theorem bootLeavesTheResetValues : Obligations.BootLeavesTheResetValues :=
  fun _ _ _ => ⟨fun _ => rfl, rfl, rfl, rfl, rfl, rfl, rfl, rfl, rfl, rfl⟩

/-- Settles O42: nothing is loaded. -/
theorem resetMemoryForm : Obligations.ResetMemoryForm := Memory.nil_wf

/-- Settles O55: bit 15 of a word is set exactly when the word is 32768 or more. -/
theorem flagsClassifyAWord : Obligations.FlagsClassifyAWord := by
  intro v
  have hzero : v = 0#16 ↔ v.toNat = 0 := by rw [← BitVec.toNat_inj]; rfl
  have hneg : v.msb = true ↔ 32768 ≤ v.toNat := by rw [BitVec.msb_eq_decide, decide_eq_true_iff]
  rw [← BitVec.msb_eq_getLsbD_last (x := v), hneg]
  simp only [flags, hzero, hneg]
  split_ifs with h0 h1
  · simp [h0]
  · simp [h0, h1]
  · simp
    omega

end Sys2Proof.Machine
end

section
/-! The memory (20_memory.md): its canonical form under a step (log entry 1), the transactions of a step (R54 to R60), and
the one instruction that writes it, STOREM. -/

namespace Sys2Proof.Machine

section
variable {m : Memory}

/-- In a memory of strictly rising addresses, a listed address reads the word listed with it. -/
theorem Memory.lookup_of_mem (h : m.Pairwise fun c d => c.1 < d.1) {a : Nat} {v : Word} (hmem : (a, v) ∈ m) :
    Memory.lookup m a = v := by
  induction m with
  | nil => cases hmem
  | cons c rest ih =>
    obtain ⟨hlt, hrest⟩ := List.pairwise_cons.mp h
    cases hmem with
    | head => exact if_pos rfl
    | tail _ hmem => exact (if_neg (hlt _ hmem).ne).trans (ih hrest hmem)

/-- An address that reads another word than an unlisted one does is listed, with the word it reads. -/
theorem Memory.mem_of_lookup_ne {a : Nat} (h : Memory.lookup m a ≠ Config.unwrittenWord) :
    (a, Memory.lookup m a) ∈ m := by
  induction m with
  | nil => exact absurd rfl h
  | cons c rest ih =>
    obtain ⟨k, w⟩ := c
    simp only [Memory.lookup] at h ⊢
    split at h
    · next hk => simp [hk]
    · next hk => simp [hk, ih h]

/-- R50: which cells a canonical memory lists is decided by what its 65536 addresses read. -/
theorem Memory.mem_iff_read (h : Memory.wf m) (a : Nat) (v : Word) :
    (a, v) ∈ m ↔ a < 65536 ∧ Memory.read m (BitVec.ofNat 16 a) = v ∧ v ≠ Config.unwrittenWord := by
  obtain ⟨hrising, hcells⟩ := h
  have hread (ha : a < 65536) : Memory.read m (BitVec.ofNat 16 a) = Memory.lookup m a :=
    congrArg (Memory.lookup m) (Nat.mod_eq_of_lt ha)
  constructor
  · intro hmem
    obtain ⟨ha, hv⟩ := hcells _ hmem
    exact ⟨ha, (hread ha).trans (Memory.lookup_of_mem hrising hmem), hv⟩
  · rintro ⟨ha, rfl, hv⟩
    rw [hread ha] at hv ⊢
    exact Memory.mem_of_lookup_ne hv
end

/-- Settles O43: the two memories list the same cells, and a strictly rising list is determined by its members. -/
theorem equalMemoriesAreEqualData : Obligations.EqualMemoriesAreEqualData := by
  intro m n hm hn hread
  have : Std.Antisymm fun c d : Nat × Word => c.1 < d.1 := ⟨fun _ _ hlt hgt => absurd hgt hlt.asymm⟩
  have : Std.Irrefl fun c d : Nat × Word => c.1 < d.1 := ⟨fun c => lt_irrefl c.1⟩
  refine hm.1.eq_of_mem_iff hn.1 fun ⟨a, v⟩ => ?_
  rw [Memory.mem_iff_read hm, Memory.mem_iff_read hn, hread]

/-- Every effect keeps the canonical form: a store is a `Memory.write`, and no other effect touches the memory. -/
theorem Effect.mem_wf {i : Instr} {s t : State} (h : Effect i s t) (hwf : Memory.wf s.mem) : Memory.wf t.mem := by
  cases h with
  | store v => exact Memory.write_wf hwf s.mar v
  | compare holds =>
    rw [State.skipUnless_mem]
    exact hwf
  | _ => exact hwf

/-- Settles O41: a stopped machine keeps its memory, and the fetch does not change it before the instruction's effect. -/
theorem stepKeepsMemoryForm : Obligations.StepKeepsMemoryForm := by
  intro s t hwf h
  obtain ⟨-, rfl⟩ | ⟨-, heffect⟩ := step_cases h
  · exact hwf
  · exact heffect.mem_wf hwf

/-- Settles O10: every instruction has an effect, and so has every step. -/
theorem everyStepAnswersNext : Obligations.EveryStepAnswersNext :=
  ⟨fun i s => (exec_effect i s).imp fun _ => And.left, step_completes⟩

/-- R58, R144, D16: on this hardware STOREM stores the register at MAR and does nothing else. -/
theorem exec_storem (reg : Reg) (offset9 : BitVec 9) (s : State) :
    exec (.storem reg offset9) s = .next (s.memWrite s.mar (s.reg reg)) := rfl

/-- Settles O19: the MAPPED-WRITE address is MAR, and the frame is a store's. -/
theorem storemWritesAtMar : Obligations.StoremWritesAtMar := by
  refine fun reg offset9 => ⟨?_, fun s => ?_⟩
  · rw [← place_zero offset9]
    rfl
  · rw [mappedWrAddr_params]
    exact ⟨_, exec_storem reg offset9 s, rfl, memWrite_frame s s.mar (s.reg reg)⟩

/-- R60, R122: a step of a running machine issues its fetch, then the data transaction of the instruction fetched. -/
theorem stepTransactions_of_running {s : State} (hrun : s.run = .running) :
    stepTransactions s = .read .fetch s.pc :: dataTransactions params (decode (s.memRead s.pc)) s.fetch :=
  if_pos hrun

/-- R116: a stopped machine issues no transaction. -/
theorem stepTransactions_of_not_running {s : State} (hrun : s.run ≠ .running) : stepTransactions s = [] :=
  if_neg hrun

/-- Settles O51: the POOL and MAPPED-READ addresses as integers, MAR for the MAPPED-WRITE one, none for the rest. -/
theorem transactionsOfAStep : Obligations.TransactionsOfAStep := by
  refine ⟨fun s hrun => ?_, fun s => stepTransactions_of_not_running, rfl⟩
  rw [stepTransactions_of_running hrun]
  cases decode (s.memRead s.pc) with
  | loadc _ const9 =>
    exact congrArg (fun a => [Transaction.read .fetch s.pc, .read .literal a]) (poolAddr_sext const9)
  | loadm _ offset9 =>
    exact congrArg (fun a => [Transaction.read .fetch s.pc, .read .mapped a]) (mappedRdAddr_sext s offset9)
  | _ => rfl

/-- R160: a DIV leaves the memory as it was, whether it faults or not. -/
theorem divide_mem {p : Params} {dr sr1 : Reg} {b : Word} {s t : State} (h : divide p dr sr1 b s = .next t) :
    t.mem = s.mem := by
  obtain ⟨-, hdiv⟩ | ⟨-, hdiv⟩ := divide_cases p dr sr1 b s
  · cases hdiv.symm.trans h
    rfl
  · cases hdiv.symm.trans h
    rfl

/-- R52, R60: an instruction changes the memory by its data transaction alone. -/
theorem exec_mem {i : Instr} {s t : State} (h : exec i s = .next t) :
    t.mem = (dataTransactions params i s).foldl Transaction.applyTo s.mem := by
  cases i with
  | divReg | divImm => exact divide_mem h
  | eqReg | eqImm | ltReg | ltImm | leReg | leImm =>
    cases h
    exact State.skipUnless_mem s _
  | _ =>
    cases h
    rfl

/-- Settles O52: the fetch is a read, which leaves the memory as it is. -/
theorem memoryChangesByTransactionsOnly : Obligations.MemoryChangesByTransactionsOnly := by
  intro s t h
  by_cases hrun : s.run = .running
  · rw [step_of_running hrun] at h
    rw [stepTransactions_of_running hrun, exec_mem h]
    rfl
  · rw [step_of_not_running hrun] at h
    rw [stepTransactions_of_not_running hrun]
    cases h
    rfl

/-- R110: a step of a running machine executes the word `w` it reads at PC. -/
theorem step_of_memRead {s : State} {w : Word} (hrun : s.run = .running) (hw : s.memRead s.pc = w) :
    step s = exec (decode w) { s with ir := w, pc := s.pc + 1#16 } := by
  subst hw
  exact step_of_running hrun

/-- R58, R144: a step at a STOREM, after the fetch, stores the register at MAR. -/
theorem step_of_storem {s : State} {reg : Reg} {offset9 : BitVec 9} (hrun : s.run = .running)
    (hdecode : decode (s.memRead s.pc) = .storem reg offset9) :
    step s = .next (s.fetch.memWrite s.mar (s.reg reg)) := by
  rw [step_of_running hrun, State.fetch_ir, hdecode]
  rfl

/-- Settles O53: the store is at the address the next fetch reads. -/
theorem storeIsSeenByTheNextFetch : Obligations.StoreIsSeenByTheNextFetch := by
  intro s reg offset9 hrun hdecode hmar
  have hpc : s.pc + 2#16 = s.fetch.pc + 1#16 := (BitVec.add_assoc s.pc 1#16 1#16).symm
  have hword : (s.fetch.memWrite s.mar (s.reg reg)).memRead s.fetch.pc = s.reg reg := by simp [hmar]
  rw [hpc]
  exact ⟨_, step_of_storem hrun hdecode, hword, step_of_memRead hrun hword⟩

/-- Settles O56: the library's comparisons of words, read as natural numbers or as two's-complement integers. -/
theorem parameterReadings : Obligations.ParameterReadings :=
  ⟨fun _ _ => ⟨BitVec.ult_iff_toNat_lt, BitVec.slt_iff_toInt_lt, fun _ => rfl, BitVec.ule_iff_toNat_le,
    BitVec.sle_iff_toInt_le⟩, fun s off => ⟨rfl, by simp [mappedWrAddr, BitVec.ofNat_add]⟩⟩

end Sys2Proof.Machine
end

section
/-! Fields of a word (00_scope.md R7, 30_encoding.md R99): what stands in a word after a field is placed, and which bits a
field read out and placed again keeps. -/

namespace Sys2Proof

/-- A placed field's bits stand from `lo` up, inside the word. -/
theorem getLsbD_place {len : Nat} (v : BitVec len) (lo i : Nat) :
    (place v lo).getLsbD i = (decide (lo ≤ i ∧ i < 16) && v.getLsbD (i - lo)) := by
  have hlt : i < 16 → i - lo < 16 := by omega
  rw [place, BitVec.getLsbD_shiftLeft, BitVec.getLsbD_setWidth]
  grind

/-- A field's bits are the word's from `lo` up. -/
theorem getLsbD_field (w : Word) (lo len i : Nat) :
    (field w lo len).getLsbD i = (decide (i < len) && w.getLsbD (lo + i)) := BitVec.getLsbD_extractLsb' lo len w i

@[simp] theorem field_or (a b : Word) (lo len : Nat) : field (a ||| b) lo len = field a lo len ||| field b lo len :=
  BitVec.extractLsb'_or

/-- R99: a placed field is extracted again. -/
@[simp] theorem field_place_same {len lo : Nat} (v : BitVec len) (h : lo + len ≤ 16) : field (place v lo) lo len = v := by
  ext i hi
  rw [← BitVec.getLsbD_eq_getElem, getLsbD_field, getLsbD_place]
  simp [hi, show lo + i < 16 by omega]

/-- R82: a placed field leaves every field it does not overlap at 0. -/
@[simp] theorem field_place_of_disjoint {len lo len' lo' : Nat} (v : BitVec len) (h : lo + len ≤ lo' ∨ lo' + len' ≤ lo) :
    field (place v lo) lo' len' = 0#len' := by
  ext i hi
  rw [← BitVec.getLsbD_eq_getElem, getLsbD_field, getLsbD_place]
  by_cases hlo : lo ≤ lo' + i
  · simp [BitVec.getLsbD_of_ge v (lo' + i - lo) (by omega)]
  · simp [hlo]

/-- A field read out and placed where it stood: the word with all its other bits cleared. -/
theorem place_field (w : Word) (lo len : Nat) : place (field w lo len) lo = w &&& place (BitVec.allOnes len) lo := by
  ext i hi
  rw [← BitVec.getLsbD_eq_getElem, ← BitVec.getLsbD_eq_getElem, BitVec.getLsbD_and, getLsbD_place, getLsbD_place,
    getLsbD_field, BitVec.getLsbD_allOnes]
  grind

/-- Two words that agree on the bits of `m` agree on a field whose bits `m` holds. -/
theorem field_congr {w v m : Word} (h : w &&& m = v &&& m) (lo len : Nat)
    (hm : m &&& place (BitVec.allOnes len) lo = place (BitVec.allOnes len) lo) (hlen : lo + len ≤ 16) :
    field w lo len = field v lo len := by
  rw [← field_place_same (field w lo len) hlen, ← field_place_same (field v lo len) hlen, place_field, place_field, ← hm,
    ← BitVec.and_assoc, ← BitVec.and_assoc, h]

/-- R89: a register's index names the register. -/
@[simp] theorem Reg.ofBits_toBits (r : Reg) : Reg.ofBits r.toBits = r := by
  cases r <;> rfl

/-- R89: every index names a register of that index. -/
@[simp] theorem Reg.toBits_ofBits (b : BitVec 3) : (Reg.ofBits b).toBits = b := by
  revert b
  decide

/-- R93: every code names an opcode of that code. -/
@[simp] theorem Op.code_ofCode (c : BitVec 4) : (Op.ofCode c).code = c := by
  revert c
  decide

/-- R92: IMM_FLAG is the one-bit field at bit 8. -/
theorem immFlag_eq_field (w : Word) : immFlag w = (field w 8 1).getLsbD 0 := by
  rw [getLsbD_field]
  rfl

/-- R92: IMM_FLAG read out and placed again keeps bit 8. -/
theorem place_immFlag (w : Word) : place (BitVec.ofBool (immFlag w)) 8 = w &&& 0x0100#16 := by
  have hflag : BitVec.ofBool (immFlag w) = field w 8 1 := by
    rw [immFlag_eq_field]
    generalize field w 8 1 = b
    revert b
    decide
  rw [hflag, place_field]
  rfl

/-- R81: the opcode read out and placed again keeps bits 15:12. -/
theorem placeOp_opcodeOf (w : Word) : placeOp (opcodeOf w) = w &&& 0xF000#16 := by
  rw [placeOp, opcodeOf, Op.code_ofCode, place_field]
  rfl

/-- R89: a register field read out and placed again keeps its three bits. -/
theorem placeReg_regAt (w : Word) (lo : Nat) : placeReg (regAt w lo) lo = w &&& place (BitVec.allOnes 3) lo := by
  rw [placeReg, regAt, Reg.toBits_ofBits, place_field]

end Sys2Proof
end

section
/-! Decoding an encoding, for every well-formed choice of the open positions (30_encoding.md R82, R99, R108). -/

namespace Sys2Proof

/-- R82: the well-formed positions, as inequalities. -/
theorem FieldPos.wellFormed_iff (p : FieldPos) :
    p.wellFormed = true ↔
      p.jumpSignBit ≤ 11 ∧ p.jumpOffLo + 10 ≤ 12 ∧ (p.jumpSignBit < p.jumpOffLo ∨ p.jumpOffLo + 10 ≤ p.jumpSignBit) ∧
      p.aluSr2Lo + 3 ≤ 5 ∧ p.cmpSr2Lo + 3 ≤ 8 := by
  simp [FieldPos.wellFormed, FieldPos.signInside, FieldPos.offsetInside, FieldPos.jumpDisjoint, FieldPos.aluSr2Inside,
    FieldPos.cmpSr2Inside, and_assoc]

section
variable {p : FieldPos}

/-- R87: the register form of format A. -/
theorem decodeAlu_encodeAluReg (hp : p.aluSr2Lo + 3 ≤ 5) (o : Op) (dr sr1 sr2 : Reg)
    (register : Reg → Reg → Reg → Instr) (immediate : Reg → Reg → BitVec 5 → Instr) :
    decodeAlu p (encodeAluReg p o dr sr1 sr2) register immediate = register dr sr1 sr2 := by
  simp (disch := omega) [decodeAlu, encodeAluReg, immFlag_eq_field, regAt, placeOp, placeReg]

/-- R87: the immediate form of format A. -/
theorem decodeAlu_encodeAluImm (o : Op) (dr sr1 : Reg) (imm5 : BitVec 5)
    (register : Reg → Reg → Reg → Instr) (immediate : Reg → Reg → BitVec 5 → Instr) :
    decodeAlu p (encodeAluImm o dr sr1 imm5) register immediate = immediate dr sr1 imm5 := by
  simp (disch := omega) [decodeAlu, encodeAluImm, immFlag_eq_field, regAt, placeOp, placeReg]

/-- R88: the register form of format C. -/
theorem decodeCmp_encodeCmpReg (hp : p.cmpSr2Lo + 3 ≤ 8) (o : Op) (lhs sr2 : Reg)
    (register : Reg → Reg → Instr) (immediate : Reg → BitVec 8 → Instr) :
    decodeCmp p (encodeCmpReg p o lhs sr2) register immediate = register lhs sr2 := by
  simp (disch := omega) [decodeCmp, encodeCmpReg, immFlag_eq_field, regAt, placeOp, placeReg]

/-- R88: the immediate form of format C. -/
theorem decodeCmp_encodeCmpImm (o : Op) (lhs : Reg) (imm8 : BitVec 8)
    (register : Reg → Reg → Instr) (immediate : Reg → BitVec 8 → Instr) :
    decodeCmp p (encodeCmpImm o lhs imm8) register immediate = immediate lhs imm8 := by
  simp (disch := omega) [decodeCmp, encodeCmpImm, immFlag_eq_field, regAt, placeOp, placeReg]

/-- R93: an opcode with nothing beside it. -/
theorem opcodeOf_placeOp (o : Op) : opcodeOf (placeOp o) = o := by
  cases o <;> rfl

/-- R81, R93: an encoding carries the opcode of its instruction, wherever the open fields are. -/
theorem opcodeOf_encodeWith (hp : p.wellFormed = true) (i : Instr) : opcodeOf (encodeWith p i) = i.op := by
  obtain ⟨hsign, hoff, -, halu, hcmp⟩ := p.wellFormed_iff.mp hp
  cases i with
  | halt | dbg | unassigned => exact opcodeOf_placeOp _
  | loadc | loadm | storem => exact Laws.opcodeOf_two _ (Laws.placeReg_lt _ 9 (by decide)) (Laws.place_lt _ 0 (by decide))
  | move | not => exact Laws.opcodeOf_two _ (Laws.placeReg_lt _ 9 (by decide)) (Laws.placeReg_lt _ 6 (by decide))
  | jump => exact Laws.opcodeOf_two _ (Laws.place_lt _ _ (by omega)) (Laws.place_lt _ _ (by omega))
  | addReg | subReg | mulReg | divReg =>
    exact Laws.opcodeOf_three _ (Laws.placeReg_lt _ 9 (by decide)) (Laws.placeReg_lt _ 5 (by decide))
      (Laws.placeReg_lt _ _ (by omega))
  | addImm | subImm | mulImm | divImm => exact Laws.opcodeOf_aluImm _ _ _ _
  | eqReg | ltReg | leReg => exact Laws.opcodeOf_two _ (Laws.placeReg_lt _ 9 (by decide)) (Laws.placeReg_lt _ _ (by omega))
  | eqImm | ltImm | leImm => exact Laws.opcodeOf_cmpImm _ _ _

end

/-- Settles O1: the encoding carries its opcode, and no field of the opcode's format overlaps another. -/
theorem decodeEncodeForEveryFieldPosition : Obligations.DecodeEncodeForEveryFieldPosition := by
  intro p hp i
  obtain ⟨hsign, hoff, hdisjoint, halu, hcmp⟩ := p.wellFormed_iff.mp hp
  rw [decodeWith, opcodeOf_encodeWith hp]
  cases i with
  | halt | dbg | unassigned => rfl
  | addReg | subReg | mulReg | divReg => exact decodeAlu_encodeAluReg halu ..
  | addImm | subImm | mulImm | divImm => exact decodeAlu_encodeAluImm ..
  | eqReg | ltReg | leReg => exact decodeCmp_encodeCmpReg hcmp ..
  | eqImm | ltImm | leImm => exact decodeCmp_encodeCmpImm ..
  | loadc | loadm | storem | move | not | jump =>
    simp (disch := omega) [Instr.op, encodeWith, regAt, placeOp, placeReg]

end Sys2Proof
end

section
/-! Encoding a decoded word, for every choice of the open positions: the used bits stay, the others are cleared
(30_encoding.md R96, R99). -/

namespace Sys2Proof

section
variable {p : FieldPos} {w : Word} {o : Op}

/-- R92: in the immediate form the flag placed is the word's bit 8. -/
theorem place_one_of_immFlag (h : immFlag w = true) : place 1#1 8 = w &&& 0x0100#16 := by
  rw [← place_immFlag, h]
  rfl

/-- R92: in the register form bit 8 is 0, so a mask may hold it or not. -/
theorem and_flag_or_of_not_immFlag (h : ¬immFlag w = true) (m : Word) : w &&& (0x0100#16 ||| m) = w &&& m := by
  rw [BitVec.and_or_distrib_left, ← place_immFlag, Bool.eq_false_of_not_eq_true h]
  exact BitVec.zero_or

/-- R87: the fields of the immediate form of format A are the whole word. -/
theorem encodeAluImm_fields (ho : placeOp o = w &&& 0xF000#16) (h : immFlag w = true) :
    encodeAluImm o (regAt w 9) (regAt w 5) (field w 0 5) = w &&& 0xFFFF#16 := by
  simp only [encodeAluImm, ho, placeReg_regAt, place_one_of_immFlag h, place_field, ← BitVec.and_or_distrib_left]
  rfl

/-- R87: the fields of the register form of format A are the word but for the bits of IR[4:0] that are not SR2's. -/
theorem encodeAluReg_fields (ho : placeOp o = w &&& 0xF000#16) (h : ¬immFlag w = true) :
    encodeAluReg p o (regAt w 9) (regAt w 5) (regAt w p.aluSr2Lo) =
      w &&& (0xFFE0#16 ||| place (BitVec.allOnes 3) p.aluSr2Lo) := by
  simp only [encodeAluReg, ho, placeReg_regAt, ← BitVec.and_or_distrib_left]
  rw [← and_flag_or_of_not_immFlag h, ← BitVec.or_assoc]
  rfl

/-- R88: the fields of the immediate form of format C are the whole word. -/
theorem encodeCmpImm_fields (ho : placeOp o = w &&& 0xF000#16) (h : immFlag w = true) :
    encodeCmpImm o (regAt w 9) (field w 0 8) = w &&& 0xFFFF#16 := by
  simp only [encodeCmpImm, ho, placeReg_regAt, place_one_of_immFlag h, place_field, ← BitVec.and_or_distrib_left]
  rfl

/-- R88: the fields of the register form of format C are the word but for the bits of IR[7:0] that are not SR2's. -/
theorem encodeCmpReg_fields (ho : placeOp o = w &&& 0xF000#16) (h : ¬immFlag w = true) :
    encodeCmpReg p o (regAt w 9) (regAt w p.cmpSr2Lo) =
      w &&& (0xFF00#16 ||| place (BitVec.allOnes 3) p.cmpSr2Lo) := by
  simp only [encodeCmpReg, ho, placeReg_regAt, ← BitVec.and_or_distrib_left]
  rw [← and_flag_or_of_not_immFlag h, ← BitVec.or_assoc]
  rfl
end

/-- S1, R96, R99: decoding and encoding a word clears its unused bits and keeps the others. -/
theorem encodeWith_decodeWith (p : FieldPos) (w : Word) :
    encodeWith p (decodeWith p w) = w &&& usedBitsWith p w := by
  have ho := placeOp_opcodeOf w
  unfold decodeWith usedBitsWith
  generalize opcodeOf w = o at ho
  cases o with
  | halt | dbg | unassigned => exact ho
  | add | sub | mul | div =>
    unfold decodeAlu
    split_ifs with h
    · exact encodeAluImm_fields ho h
    · exact encodeAluReg_fields ho h
  | eq | lt | le =>
    unfold decodeCmp
    split_ifs with h
    · exact encodeCmpImm_fields ho h
    · exact encodeCmpReg_fields ho h
  | jump => simp only [encodeWith, ho, place_field, BitVec.and_or_distrib_left]
  | loadc | loadm | storem | move | not =>
    simp only [encodeWith, ho, placeReg_regAt, place_field, ← BitVec.and_or_distrib_left]
    rfl

/-- Settles O3: `encodeWith_decodeWith` at this hardware's positions. -/
theorem reencodingClearsExactlyUnusedBits : Obligations.ReencodingClearsExactlyUnusedBits :=
  encodeWith_decodeWith fieldPos

end Sys2Proof
end

section
/-! This hardware's encoding (30_encoding.md R81, R96, R99): what the two round trips say of words and of a step. -/

namespace Sys2Proof

open Sys2Proof.Machine

/-- R99, R108: decoding an encoding gives the instruction back. -/
@[simp] theorem decode_encode (i : Instr) : decode (encode i) = i :=
  decodeEncodeForEveryFieldPosition fieldPos (by decide) i

theorem encode_decode (w : Word) : encode (decode w) = w &&& usedBits w := reencodingClearsExactlyUnusedBits w

/-- R99: no two instructions have one encoding. -/
theorem encode_injective : Function.Injective encode := Function.LeftInverse.injective decode_encode

/-- R96: the unused bits of an encoding are 0. -/
theorem encode_and_usedBits (i : Instr) : encode i &&& usedBits (encode i) = encode i := by
  rw [← encode_decode, decode_encode]

/-- R81: the opcode is bits 15:12. -/
theorem op_code_decode (w : Word) : (decode w).op.code = w.extractLsb' 12 4 := by
  rw [op_decode, opcodeOf, Op.code_ofCode]
  rfl

/-- Settles O5: the opcode is read from the field at bits 15:12. -/
theorem opcodeAloneSelectsInstruction : Obligations.OpcodeAloneSelectsInstruction := by
  refine ⟨op_code_decode, fun c u v => ?_⟩
  have hop (x : BitVec 12) : (decode (c ++ x)).op = Op.ofCode c := by
    rw [op_decode, opcodeOf, field, BitVec.extractLsb'_append_eq_left]
  rw [hop, hop]

/-- Settles O9: the word at PC decodes to the one instruction of that encoding. -/
theorem stepRunsEncodedInstruction : Obligations.StepRunsEncodedInstruction := by
  intro s i hrun hword
  have hi : decode (s.memRead s.pc) = i := encode_injective ((encode_decode _).trans hword)
  rw [← hi]
  exact step_of_memRead hrun rfl

/-- R96: two words that differ in bits outside `m` alone agree on `m`. -/
theorem and_eq_and_of_xor_and_eq_zero {w v m : Word} (h : (w ^^^ v) &&& m = 0#16) : w &&& m = v &&& m := by
  apply BitVec.xor_eq_zero_iff.mp
  rw [← h]
  ext i hi
  simp [Bool.and_xor_distrib_right]

/-- R81, R96: the opcode bits of every word are used. -/
theorem usedBits_and_opcode (w : Word) : usedBits w &&& 0xF000#16 = 0xF000#16 := by
  unfold usedBits usedBitsWith
  generalize immFlag w = imm
  revert imm
  cases opcodeOf w <;> decide

/-- R81, R92, R96: which bits of a word are used is decided by used bits, the opcode and in formats A and C IMM_FLAG. -/
theorem usedBits_congr {w v : Word} (h : w &&& usedBits w = v &&& usedBits w) : usedBits v = usedBits w := by
  have hop : opcodeOf w = opcodeOf v := congrArg Op.ofCode (field_congr h 12 4 (usedBits_and_opcode w) (by decide))
  have hflag (hused : usedBits w &&& 0x0100#16 = 0x0100#16) : immFlag w = immFlag v := by
    rw [immFlag_eq_field, immFlag_eq_field, field_congr h 8 1 hused (by decide)]
  unfold usedBits usedBitsWith at hflag ⊢
  rw [← hop]
  generalize immFlag w = imm, immFlag v = imm' at hflag ⊢
  revert imm imm'
  cases opcodeOf w <;> decide

/-- Settles O4: words that agree on the used bits have one re-encoding, and encoding is injective; the masks by the
decoder's arms. -/
theorem unusedBitsAreIgnored : Obligations.UnusedBitsAreIgnored := by
  refine ⟨fun w v h => encode_injective ?_, fun w => ?_⟩
  · have hagree := and_eq_and_of_xor_and_eq_zero h
    rw [encode_decode, encode_decode, usedBits_congr hagree, hagree]
  · unfold usedBits usedBitsWith decode decodeWith
    cases opcodeOf w with
    | add | sub | mul | div =>
      unfold decodeAlu
      split_ifs <;> rfl
    | eq | lt | le =>
      unfold decodeCmp
      split_ifs <;> rfl
    | _ => rfl

/-- R99: a word whose lowest `b` bits are the field of `k` is `k mod 2^b` there. -/
theorem toNat_emod_of_field {b : Nat} {w : Word} {k : Int} (h : field w 0 b = BitVec.ofInt b k) :
    (w.toNat % 2 ^ b : Int) = k % 2 ^ b := by
  have hmod : (field w 0 b).toNat = w.toNat % 2 ^ b := BitVec.extractLsb'_toNat 0 b w
  have hint : ((BitVec.ofInt b k).toNat : Int) = k % 2 ^ b := by
    rw [BitVec.toNat_ofInt]
    exact Int.toNat_of_nonneg (Int.emod_nonneg k (by positivity))
  rw [← hint, ← h, hmod]
  rfl

/-- R87: IMM5 stands in bits 4:0. -/
theorem field_encodeAluImm (o : Op) (dr sr1 : Reg) (imm5 : BitVec 5) : field (encodeAluImm o dr sr1 imm5) 0 5 = imm5 := by
  simp (disch := omega) [encodeAluImm, placeOp, placeReg]

/-- R88: IMM8 stands in bits 7:0. -/
theorem field_encodeCmpImm (o : Op) (lhs : Reg) (imm8 : BitVec 8) : field (encodeCmpImm o lhs imm8) 0 8 = imm8 := by
  simp (disch := omega) [encodeCmpImm, placeOp, placeReg]

/-- R84, R85: CONST9 and OFFSET9 stand in bits 8:0. -/
theorem field_const9 (o : Op) (reg : Reg) (const9 : BitVec 9) :
    field (placeOp o ||| placeReg reg 9 ||| place const9 0) 0 9 = const9 := by
  simp (disch := omega) [placeOp, placeReg]

/-- Settles O2: the two round trips, and the immediate's field in each format that has one. -/
theorem encodingIsInverseOfDecoding : Obligations.EncodingIsInverseOfDecoding := by
  refine ⟨fun i => ⟨decode_encode i, ?_, ?_⟩, fun make hmake dr sr1 k _ => toNat_emod_of_field ?_,
    fun make hmake lhs k _ => toNat_emod_of_field ?_, fun make hmake reg k _ => toNat_emod_of_field ?_⟩
  · rw [← op_code_decode, decode_encode]
  · rw [← encode_and_usedBits, BitVec.and_assoc, encode_and_usedBits]
    simp
  · fin_cases hmake <;> exact field_encodeAluImm ..
  · fin_cases hmake <;> exact field_encodeCmpImm ..
  · fin_cases hmake <;> exact field_const9 ..

end Sys2Proof
end

section
/-! JUMP (43_jump.md R150) and NOT (44_alu.md R161). -/

namespace Sys2Proof.Machine

/-- R150: a write of PC is the whole effect. -/
theorem writesPcOnly_setPc (s : State) (v : Word) : WritesPcOnly s (s.setPc v) :=
  ⟨fun _ => rfl, ⟨rfl, rfl, rfl, ⟨rfl, rfl, rfl⟩, rfl, rfl⟩, fun _ => rfl⟩

/-- R91, R150: the target as an integer, modulo 65536. -/
theorem toNat_jumpTarget (pc : Word) (sign : BitVec 1) (offset : BitVec 10) :
    ((jumpTarget pc sign offset).toNat : Int) =
      (if sign = 0#1 then (pc.toNat : Int) + offset.toNat else (pc.toNat : Int) - offset.toNat) % 65536 := by
  have hzext : (zext offset).toNat = offset.toNat := toNat_zext (by decide) offset
  unfold jumpTarget
  split
  · rw [BitVec.toNat_add, hzext]
    rfl
  · rw [BitVec.toNat_sub, hzext]
    omega

/-- Settles O20: the target as an integer and the frame of a PC write. -/
theorem jumpMovesPc : Obligations.JumpMovesPc := fun sign offset =>
  ⟨rfl, fun s => ⟨_, rfl, writesPcOnly_setPc s _, toNat_jumpTarget s.pc sign offset⟩⟩

theorem aluComplement_eq_not (a : Word) : aluComplement a = ~~~a := BitVec.xor_allOnes

/-- Settles O27: the decoder's arm, the library's complement, and the frame of a register write. -/
theorem notInvertsEveryBit : Obligations.NotInvertsEveryBit := by
  refine ⟨fun w hw => ?_, fun dr sr => ⟨rfl, fun s => ?_⟩⟩
  · have hop : opcodeOf w = .not := congrArg Op.ofCode hw
    rw [decode, decodeWith, hop]
    rfl
  · obtain ⟨hval, hframe⟩ := writeResult_frame s .not dr (aluComplement (s.reg sr))
    refine ⟨_, rfl, ?_, ?_, hframe⟩
    · rw [hval, aluComplement_eq_not]
      intro n hn
      simp [hn]
    · rw [hval, aluComplement_eq_not]
      exact BitVec.toNat_not

end Sys2Proof.Machine
end

section
/-! The loader (70_reset_and_hazards.md R214) and the start of the source's example (30_encoding.md R103, R104). -/

namespace Sys2Proof.Machine

/-- R104, R214: an image loaded from address `a` upward, where it ends before the last address. -/
theorem Memory.read_loadFrom (image : List Word) (m : Memory) (a : Nat) (h : a + image.length ≤ 65536) (b : Addr) :
    Memory.read (Memory.loadFrom m a image) b =
      if a ≤ b.toNat then image.getD (b.toNat - a) (Memory.read m b) else Memory.read m b := by
  induction image generalizing m a with
  | nil => simp [Memory.loadFrom]
  | cons w rest ih =>
    rw [List.length_cons] at h
    have haddr : b = BitVec.ofNat 16 a ↔ b.toNat = a := by
      rw [← BitVec.toNat_inj, BitVec.toNat_ofNat, Nat.mod_eq_of_lt (by omega)]
    rw [Memory.loadFrom, ih _ _ (by omega), Memory.read_write]
    simp only [haddr]
    obtain hlt | heq | hgt := Nat.lt_trichotomy b.toNat a
    · rw [if_neg (show ¬a + 1 ≤ b.toNat by omega), if_neg hlt.ne, if_neg hlt.not_ge]
    · simp [heq]
    · have hindex : b.toNat - a = b.toNat - (a + 1) + 1 := by omega
      rw [if_pos (Nat.succ_le_of_lt hgt), if_neg hgt.ne', if_pos hgt.le, hindex, List.getD_cons_succ]

/-- Settles O57: the image loaded from address 0. -/
theorem imageIsLoadedFromZero : Obligations.ImageIsLoadedFromZero := by
  intro m image h a
  exact (Memory.read_loadFrom image m 0 (by omega) a).trans (if_pos (Nat.zero_le _))

/-- Settles O6: the words are evaluated. -/
theorem sampleWordsDecode : Obligations.SampleWordsDecode := by
  unfold Obligations.SampleWordsDecode
  decide

/-- Settles O58: the start of the run is the image's power-up; its first step is the LOADC at address 2. -/
theorem sourceExampleAssemblesAndLoads : Obligations.SourceExampleAssemblesAndLoads := by
  refine ⟨by decide, fun gprInit marInit memInit => ?_⟩
  set image : List Word := [0x0002#16, 0x0007#16, 0x1000#16, 0x0000#16]
  set s := State.boot gprInit marInit (Memory.load memInit image)
  have hread (a : Addr) : s.memRead a = image.getD a.toNat (Memory.read memInit a) :=
    imageIsLoadedFromZero memInit image (by decide) a
  have hpc : s.pc = 2#16 := hread 0#16
  have hword : s.memRead s.pc = 0x1000#16 := by rw [hpc]; exact hread 2#16
  have hstep := step_of_memRead (s := s) rfl hword
  have hdecode : decode 0x1000#16 = .loadc .r0 0#9 := by decide
  obtain ⟨-, hloadc⟩ := loadcReadsThePool
  obtain ⟨-, hexec⟩ := hloadc .r0 0#9
  obtain ⟨t, ht, hval, -, htpc, -⟩ := hexec { s with ir := 0x1000#16, pc := s.pc + 1#16 }
  rw [hdecode, ht] at hstep
  refine ⟨s, t, if_pos (by decide), hstep, hval.trans (hread 1#16), ?_⟩
  exact htpc.trans (congrArg (· + 1#16) hpc)

end Sys2Proof.Machine
end

section
/-! The assembler (30_encoding.md R102 to R105): a text is the lines before START, START, and the lines after it. -/

namespace Sys2Proof.Machine

/-- The word a line denotes, if it denotes one (R101, R102). -/
def Line.word (p : FieldPos) : Line → Option Word
  | .const v => some (BitVec.ofInt 16 v)
  | .start => none
  | .instr op operands => (assembleInstr op operands).map (encodeWith p)

section
variable {p : FieldPos} {l : Line} {lines rest : List Line} {words out : List Word}

/-- R102: a line that denotes a word emits it. -/
theorem emitLines_of_word {w : Word} (h : l.word p = some w) (rest : List Line) (out : List Word) (entry : Option Nat) :
    emitLines p (l :: rest) out entry = emitLines p rest (out ++ [w]) entry := by
  cases l with
  | const v =>
    cases h
    rfl
  | start => cases h
  | instr op operands =>
    obtain ⟨i, hi, rfl⟩ := Option.map_eq_some_iff.mp h
    simp only [emitLines, hi]

/-- R102: lines that all denote words emit them in order. -/
theorem emitLines_append (h : lines.map (Line.word p) = words.map some) (rest : List Line) (out : List Word)
    (entry : Option Nat) : emitLines p (lines ++ rest) out entry = emitLines p rest (out ++ words) entry := by
  induction lines generalizing words out with
  | nil =>
    obtain rfl := List.map_eq_nil_iff.mp h.symm
    rw [List.append_nil]
    rfl
  | cons l lines ih =>
    obtain ⟨w, words, rfl, hl, hlines⟩ := List.map_eq_cons_iff.mp h.symm
    rw [List.cons_append, emitLines_of_word hl.symm, ih hlines.symm, List.append_assoc]
    rfl

/-- R103, R105, D22, D23: a second START, or a line that is neither START nor denotes a word, makes the text no program. -/
theorem emitLines_of_no_word (h : l.word p = none) {entry : Option Nat} (hentry : entry ≠ none ∨ l ≠ .start)
    (rest : List Line) (out : List Word) : emitLines p (l :: rest) out entry = none := by
  cases l with
  | const v => cases h
  | start =>
    cases entry with
    | none => simp at hentry
    | some e => rfl
  | instr op operands => simp only [emitLines, Option.map_eq_none_iff.mp h]

/-- Every text is lines that denote words, then nothing or a line that denotes none. -/
theorem exists_words_then_no_word (p : FieldPos) (lines : List Line) :
    ∃ (before : List Line) (words : List Word) (rest : List Line), lines = before ++ rest ∧
    before.map (Line.word p) = words.map some ∧
    (rest = [] ∨ ∃ (l : Line) (tail : List Line), rest = l :: tail ∧ l.word p = none) := by
  induction lines with
  | nil => exact ⟨[], [], [], rfl, rfl, .inl rfl⟩
  | cons l lines ih =>
    cases hl : l.word p with
    | none => exact ⟨[], [], l :: lines, rfl, rfl, .inr ⟨l, lines, rfl, hl⟩⟩
    | some w =>
      obtain ⟨before, words, rest, rfl, hwords, hrest⟩ := ih
      exact ⟨l :: before, w :: words, rest, rfl, by simp [hl, hwords], hrest⟩

/-- START denotes no word. -/
theorem start_not_mem (h : lines.map (Line.word p) = words.map some) : .start ∉ lines := by
  intro hmem
  have hnone : (none : Option Word) ∈ words.map some := h ▸ List.mem_map.mpr ⟨.start, hmem, rfl⟩
  simp at hnone

/-- R103: after START, the lines emit their words and the entry stays, or the text is no program. -/
theorem emitLines_after_start {entry entry' : Nat} {words' : List Word} :
    emitLines p lines out (some entry) = some (entry', words') ↔
      entry' = entry ∧ ∃ words : List Word, lines.map (Line.word p) = words.map some ∧ words' = out ++ words := by
  constructor
  · intro h
    obtain ⟨before, words, rest, rfl, hwords, hrest⟩ := exists_words_then_no_word p lines
    rw [emitLines_append hwords] at h
    obtain rfl | ⟨l, tail, rfl, hl⟩ := hrest
    · cases h
      exact ⟨rfl, words, by simpa using hwords, rfl⟩
    · simp [emitLines_of_no_word hl] at h
  · rintro ⟨rfl, words, hwords, rfl⟩
    rw [← List.append_nil lines, emitLines_append hwords]
    rfl

/-- R103: a text is a program exactly when it is lines that denote words, START, and lines that denote words; the entry is
one more than the number of words before START. -/
theorem emitLines_eq_some_iff {entry : Nat} {words : List Word} :
    emitLines p lines [] none = some (entry, words) ↔
      ∃ (before after : List Line),
        lines = before ++ .start :: after ∧ (before ++ after).map (Line.word p) = words.map some ∧
        entry = before.length + 1 := by
  constructor
  · intro h
    obtain ⟨before, front, rest, rfl, hfront, hrest⟩ := exists_words_then_no_word p lines
    rw [emitLines_append hfront, List.nil_append] at h
    obtain rfl | ⟨l, after, rfl, hl⟩ := hrest
    · cases h
    · have hstart : l = .start := by
        by_contra hne
        simp [emitLines_of_no_word hl (.inr hne)] at h
      subst hstart
      obtain ⟨rfl, back, hback, rfl⟩ := emitLines_after_start.mp h
      have hlen : before.length = front.length := by simpa using congrArg List.length hfront
      exact ⟨before, after, rfl, by simp [hfront, hback], by rw [hlen]⟩
  · rintro ⟨before, after, rfl, hwords, rfl⟩
    rw [List.map_append] at hwords
    obtain ⟨front, back, rfl, hfront, hback⟩ := List.map_eq_append_iff.mp hwords.symm
    have hlen : front.length = before.length := by simpa using congrArg List.length hfront
    rw [emitLines_append hfront.symm]
    exact emitLines_after_start.mpr ⟨by simp [hlen], back, hback.symm, rfl⟩
end

/-- R214: an image that has its header word fits if it is no longer than the memory. -/
theorem imageFits_cons {w : Word} {words : List Word} : imageFits (w :: words) = true ↔ (w :: words).length ≤ 65536 := by
  simp [imageFits]

/-- R104, R214: the image is the header and the words emitted, if they fit. -/
theorem assembleWith_eq_some_iff {p : FieldPos} {lines : List Line} {image : List Word} :
    assembleWith p lines = some image ↔
      ∃ (entry : Nat) (words : List Word), emitLines p lines [] none = some (entry, words) ∧
        image = BitVec.ofNat 16 entry :: words ∧ image.length ≤ 65536 := by
  unfold assembleWith
  cases emitLines p lines [] none with
  | none => simp
  | some result =>
    obtain ⟨entry, words⟩ := result
    constructor
    · intro h
      obtain ⟨hfits, himage⟩ := Option.ite_none_right_eq_some.mp h
      cases himage
      exact ⟨entry, words, rfl, rfl, imageFits_cons.mp hfits⟩
    · rintro ⟨_, _, hemit, rfl, hfits⟩
      cases hemit
      exact if_pos (imageFits_cons.mpr hfits)

/-- Settles O59: the lines before and after START denote the words the assembler emits; START denotes none. -/
theorem assembledImageHasOneStart : Obligations.AssembledImageHasOneStart := by
  unfold Obligations.AssembledImageHasOneStart
  intro word lines image
  have hword : word = Line.word fieldPos := by
    funext l
    cases l <;> rfl
  rw [hword, assemble, assembleWith_eq_some_iff]
  constructor
  · rintro ⟨entry, words, hemit, himage⟩
    obtain ⟨before, after, hlines, hwords, rfl⟩ := emitLines_eq_some_iff.mp hemit
    obtain ⟨hbefore, hafter⟩ := not_or.mp (mt List.mem_append.mpr (start_not_mem hwords))
    exact ⟨before, after, words, hlines, hbefore, hafter, hwords, himage⟩
  · rintro ⟨before, after, words, hlines, -, -, hwords, himage⟩
    exact ⟨_, words, emitLines_eq_some_iff.mpr ⟨before, after, hlines, hwords, rfl⟩, himage⟩

end Sys2Proof.Machine
end

section
/-! The execution cycle (40_execution_cycle.md R110 to R117): what a step of a running machine executes, the fixpoint a
stopped machine is, and the report of a run under fuel. -/

namespace Sys2Proof.Machine

/-- Settles O8: the word at PC is its own fetch. -/
theorem stepRunsDecodedInstruction : Obligations.StepRunsDecodedInstruction := fun _ hrun => step_of_memRead hrun rfl

/-- Settles O11, by induction on the number of steps: the first one answers the same state. -/
theorem stoppedMachineNeverChanges : Obligations.StoppedMachineNeverChanges := by
  intro k s hrun
  induction k with
  | zero => rfl
  | succ k ih => exact (run_succ (step_of_not_running hrun) k).trans ih

/-- R114: every run completes. -/
theorem run_completes (k : Nat) (s : State) : ∃ t : State, Host.Core.run core k s = .next t := by
  induction k generalizing s with
  | zero => exact ⟨s, rfl⟩
  | succ k ih =>
    obtain ⟨u, hu⟩ := step_completes s
    obtain ⟨t, ht⟩ := ih u
    exact ⟨t, (run_succ hu k).trans ht⟩

/-- R116: a stopped machine is reported as it stands, whatever the fuel. -/
theorem execute_of_not_running {s : State} (hrun : s.run ≠ .running) (k : Nat) : execute k s = execute 0 s := by
  cases k with
  | zero => rfl
  | succ k =>
    cases hs : s.run with
    | running => exact absurd hs hrun
    | halted | faulted => simp only [execute, hs]

/-- R116, R117: one unit of fuel pays for one step, of a stopped machine as well. -/
theorem execute_succ {s u : State} (h : step s = .next u) (k : Nat) : execute (k + 1) s = execute k u := by
  by_cases hrun : s.run = .running
  · simp only [execute, hrun, h]
  · rw [step_of_not_running hrun] at h
    cases h
    rw [execute_of_not_running hrun (k + 1), execute_of_not_running hrun k]

/-- R117: a run under fuel `k` reports the state after `k` steps, as a run under no fuel reports it. -/
theorem execute_of_run {k : Nat} {s t : State} (h : Host.Core.run core k s = .next t) : execute k s = execute 0 t :=
  run_induction (P := fun k s t => execute k s = execute 0 t) (fun _ => rfl)
    (fun k _ _ _ hstep htail => (execute_succ hstep k).trans htail) h

/-- Settles O54: under no fuel the report is the run state of the state given. -/
theorem fuelledRunReportsTruly : Obligations.FuelledRunReportsTruly := by
  intro k s
  obtain ⟨t, ht⟩ := run_completes k s
  exact ⟨t, ht, execute_of_run ht⟩

end Sys2Proof.Machine
end

section
/-! HALT and the unassigned opcode (41_system.md R130, R132): the frame of the fault entry, the word that has opcode 0xF,
and what the host is told. -/

namespace Sys2Proof.Machine

/-- R189: a running machine has no report. -/
theorem hostReport_of_running {s : State} (hrun : s.run = .running) : s.hostReport = none := by
  rw [State.hostReport, hrun]

/-- R35, R189: after a fault entry the report is its cause and the opcode in the IR. -/
theorem hostReport_raise (s : State) (cause : FaultCause) :
    (s.raise cause).hostReport = some (.exitNonZero cause (field s.ir 12 4)) := rfl

/-- R185: the fault entry leaves all as before but the run state and the record. -/
theorem faultFrame_raise (s : State) (cause : FaultCause) : FaultFrame s (s.raise cause) :=
  ⟨fun _ => rfl, rfl, rfl, rfl, rfl, rfl, fun _ => rfl⟩

/-- R185: the record's address is the one before PC. -/
theorem raise_faultPc_add_one (s : State) (cause : FaultCause) : (s.raise cause).faultPc + 1#16 = s.pc :=
  BitVec.sub_add_cancel s.pc 1#16

/-- Settles O32: `State.halt` is a write of the run state. -/
theorem haltWritesRunAlone : Obligations.HaltWritesRunAlone :=
  ⟨by decide, fun _ => hostReport_of_running, fun s => ⟨s.halt, rfl, State.halt_run s, rfl, State.reg_halt s, rfl, rfl, rfl,
    ⟨rfl, rfl, rfl⟩, rfl, rfl, State.memRead_halt s⟩⟩

/-- Settles O34: the instruction's meaning is the fault entry. -/
theorem unassignedTakesTheFault : Obligations.UnassignedTakesTheFault := fun s =>
  ⟨s.raise .unknownOpcode, rfl, State.raise_run s _, State.raise_faultCause s _, State.raise_faultIr s _,
    raise_faultPc_add_one s _, faultFrame_raise s _⟩

/-- R81: the words from 0xF000 up are those with bits 15:12 all ones. -/
theorem field_opcode_of_ge {w : Word} (hw : 0xF000 ≤ w.toNat) : field w 12 4 = 0xF#4 := by
  apply BitVec.eq_of_toNat_eq
  rw [field, BitVec.extractLsb'_toNat, Nat.shiftRight_eq_div_pow, BitVec.toNat_ofNat]
  omega

/-- R81, R132: a word whose opcode is 0xF decodes to the unassigned instruction, whatever its parameter bits. -/
theorem decode_of_field_opcode {w : Word} (hop : field w 12 4 = 0xF#4) : decode w = .unassigned := by
  have hunassigned : opcodeOf w = .unassigned := congrArg Op.ofCode hop
  rw [decode, decodeWith, hunassigned]

/-- R110, R132, R181: a step at a word of opcode 0xF is the fetch and the fault entry. -/
theorem step_of_field_opcode {s : State} (hrun : s.run = .running) (hop : field (s.memRead s.pc) 12 4 = 0xF#4) :
    step s = .next (s.fetch.raise .unknownOpcode) := by
  rw [step_of_running hrun, State.fetch_ir, decode_of_field_opcode hop]
  rfl

/-- Settles O35: such a word has opcode 0xF, and the record is about the word and the address of the fetch. -/
theorem unknownOpcodeStepRecordsTheWord : Obligations.UnknownOpcodeStepRecordsTheWord := by
  intro s hrun hword
  have hop : field (s.memRead s.pc) 12 4 = 0xF#4 := field_opcode_of_ge hword
  refine ⟨s.fetch.raise .unknownOpcode, step_of_field_opcode hrun hop, State.raise_run _ _, rfl, State.raise_faultIr _ _,
    fetch_raise_faultPc s _, State.raise_pc _ _, ?_⟩
  rw [hostReport_raise, State.fetch_ir, hop]

end Sys2Proof.Machine
end

section
/-! JUMP (43_jump.md R150, R152): the step at a JUMP and the operand that reaches a target. -/

namespace Sys2Proof.Machine

/-- R110, R150: a step at a JUMP moves PC to the target computed from the post-increment PC. -/
theorem step_of_jump {s : State} {sign : BitVec 1} {offset : BitVec 10} (hrun : s.run = .running)
    (hdecode : decode (s.memRead s.pc) = .jump sign offset) :
    step s = .next (s.fetch.setPc (jumpTarget (s.pc + 1#16) sign offset)) := by
  rw [step_of_running hrun, State.fetch_ir, hdecode]
  rfl

/-- R152: a target not below the post-increment PC is reached by SIGN = 0 and the distance. -/
theorem jumpTarget_forward {pc target : Word} (hle : pc.toNat ≤ target.toNat) (hdist : target.toNat - pc.toNat ≤ 1023) :
    jumpTarget pc 0#1 (BitVec.ofNat 10 (target.toNat - pc.toNat)) = target := by
  have htarget := toNat_jumpTarget pc 0#1 (BitVec.ofNat 10 (target.toNat - pc.toNat))
  rw [if_pos rfl, BitVec.toNat_ofNat] at htarget
  exact BitVec.eq_of_toNat_eq (by omega)

/-- R152: a target below the post-increment PC is reached by SIGN = 1 and the distance. -/
theorem jumpTarget_backward {pc target : Word} (hlt : target.toNat < pc.toNat) (hdist : pc.toNat - target.toNat ≤ 1023) :
    jumpTarget pc 1#1 (BitVec.ofNat 10 (pc.toNat - target.toNat)) = target := by
  have htarget := toNat_jumpTarget pc 1#1 (BitVec.ofNat 10 (pc.toNat - target.toNat))
  rw [if_neg (by decide), BitVec.toNat_ofNat] at htarget
  exact BitVec.eq_of_toNat_eq (by omega)

/-- Settles O21: the distance is counted from the post-increment PC, which is `a + 1`. -/
theorem jumpOperandReachesItsTarget : Obligations.JumpOperandReachesItsTarget := by
  intro s target hrun hpc
  have hnext : (s.pc + 1#16).toNat = s.pc.toNat + 1 := BitVec.toNat_add_of_lt hpc
  rw [← hnext]
  exact ⟨fun hle hdist hdecode => ⟨_, step_of_jump hrun hdecode, jumpTarget_forward hle hdist⟩,
    fun hlt hdist hdecode => ⟨_, step_of_jump hrun hdecode, jumpTarget_backward hlt hdist⟩⟩

end Sys2Proof.Machine
end

section
/-! DIV by 0 (44_alu.md R160): the fault of decision D6. -/

namespace Sys2Proof.Machine

/-- R160, R182, R185: an instruction whose divisor is 0 takes the DivisionByZero fault, which leaves all else as before. -/
theorem exec_of_divisor_zero {i : Instr} {s : State} (h : divisor i s = some 0#16) : ∃ t : State, exec i s = .next t ∧
    t.run = .faulted ∧ t.faultCause = .divisionByZero ∧ t.faultIr = s.ir ∧ t.faultPc + 1#16 = s.pc ∧ FaultFrame s t :=
  ⟨s.raise .divisionByZero, execWith_params i s ▸ execWith_of_divisor_zero params h, State.raise_run s _,
    State.raise_faultCause s _, State.raise_faultIr s _, raise_faultPc_add_one s _, faultFrame_raise s _⟩

/-- Settles O26: the divisor is the register's value, or the immediate 0 sign-extended, which is 0. -/
theorem divByZeroTakesTheFault : Obligations.DivByZeroTakesTheFault := by
  intro dr sr1 sr2 s
  have hreg (hzero : s.reg sr2 = 0#16) : divisor (.divReg dr sr1 sr2) s = some 0#16 := congrArg some hzero
  have himm : divisor (.divImm dr sr1 0#5) s = some 0#16 := congrArg some (by decide : sext 0#5 = 0#16)
  exact ⟨fun hzero => exec_of_divisor_zero (hreg hzero), exec_of_divisor_zero himm⟩

end Sys2Proof.Machine
end

section
/-! EQ, LT and LE (45_compare.md R170 to R174): the words of the two forms, the relation that keeps PC, and that a compare
neither reads nor writes memory. -/

namespace Sys2Proof.Machine

/-- R88: the immediate form of format C, IMM_FLAG written into the constant part `c` of the word. -/
theorem encodeCmpImm_eq {o : Op} {c : Word} (hc : placeOp o ||| 0x0100#16 = c) (lhs : Reg) (imm8 : BitVec 8) :
    encodeCmpImm o lhs imm8 = c ||| lhs.toBits.setWidth 16 <<< 9 ||| imm8.setWidth 16 := by
  have hflag : place 1#1 8 = 0x0100#16 := by decide
  rw [encodeCmpImm, hflag, place_zero, ← hc, BitVec.or_assoc (placeOp o), BitVec.or_comm (placeReg lhs 9),
    ← BitVec.or_assoc]
  rfl

section
variable (s : State) (lhs : Reg) (b : Word)

/-- R171: EQ writes PC alone, and skips unless the operands are equal, for either second operand `b`. -/
theorem compareEq_effect : ∃ t : State, compareEq lhs b s = .next t ∧ WritesPcOnly s t ∧
    t.pc = if s.reg lhs = b then s.pc else s.pc + 1#16 :=
  ⟨_, rfl, writesPcOnly_skipUnless s _, by simp [aluEq]⟩

/-- R172, D7: on this hardware LT's relation is the one of the natural numbers, for either second operand `b`. -/
theorem compareLt_unsigned_effect : ∃ t : State, compareLt params lhs b s = .next t ∧ WritesPcOnly s t ∧
    t.pc = if (s.reg lhs).toNat < b.toNat then s.pc else s.pc + 1#16 := by
  have hless : aluLess params.ltSigned (s.reg lhs) b = true ↔ (s.reg lhs).toNat < b.toNat := BitVec.ult_iff_toNat_lt
  simpa only [hless] using compareLt_effect params lhs b s

/-- R173, D17: on this hardware LE answers LT's next state, for either second operand `b`. -/
theorem compareLe_unsigned_effect : ∃ t : State, compareLe params lhs b s = .next t ∧ compareLt params lhs b s = .next t ∧
    WritesPcOnly s t ∧ t.pc = if (s.reg lhs).toNat < b.toNat then s.pc else s.pc + 1#16 := by
  obtain ⟨t, hlt, hframe⟩ := compareLt_unsigned_effect s lhs b
  exact ⟨t, (compareLe_eq_compareLt lhs b s).trans hlt, hlt, hframe⟩
end

/-- Settles O28: `compareEq_effect` at the register and at the sign-extended immediate. -/
theorem eqSkipsUnlessEqual : Obligations.EqSkipsUnlessEqual := by
  refine ⟨fun lhs sr2 => ⟨rfl, fun s => compareEq_effect s lhs (s.reg sr2)⟩, fun lhs imm8 => ?_⟩
  rw [← sext_eq_ofInt]
  exact ⟨encodeCmpImm_eq (by decide) lhs imm8, fun s => compareEq_effect s lhs (sext imm8)⟩

/-- Settles O29: `compareLt_unsigned_effect` at the register and at the sign-extended immediate. -/
theorem ltSkipsUnlessLess : Obligations.LtSkipsUnlessLess := by
  refine ⟨fun lhs sr2 => ⟨rfl, fun s => compareLt_unsigned_effect s lhs (s.reg sr2)⟩, fun lhs imm8 => ?_⟩
  rw [← sext_eq_ofInt]
  exact ⟨encodeCmpImm_eq (by decide) lhs imm8, fun s => compareLt_unsigned_effect s lhs (sext imm8)⟩

/-- Settles O30: `compareLe_unsigned_effect` at the register and at the sign-extended immediate. -/
theorem leSkipsUnlessLess : Obligations.LeSkipsUnlessLess := by
  refine ⟨fun lhs sr2 => ⟨rfl, fun s => compareLe_unsigned_effect s lhs (s.reg sr2)⟩, fun lhs imm8 => ?_⟩
  rw [← sext_eq_ofInt]
  exact ⟨encodeCmpImm_eq (by decide) lhs imm8, fun s => compareLe_unsigned_effect s lhs (sext imm8)⟩

/-- R52, R111: a store elsewhere than at PC does not change what the fetch does. -/
theorem fetch_memWrite {s : State} {a : Addr} (ha : a ≠ s.pc) (w : Word) :
    (s.memWrite a w).fetch = s.fetch.memWrite a w := by
  have hword : (s.memWrite a w).memRead s.pc = s.memRead s.pc := by simp [ha.symm]
  exact congrArg (fun v => ((s.memWrite a w).setIr v).setPc (s.pc + 1#16)) hword

/-- R174: a skip does not depend on memory. -/
theorem skipUnless_memWrite (s : State) (holds : Bool) (a : Addr) (w : Word) :
    (s.memWrite a w).skipUnless holds = (s.skipUnless holds).memWrite a w := by
  cases holds <;> rfl

/-- R170: the operands of a compare are registers and the instruction's own immediate, so no word of memory is read. -/
theorem exec_compare_memWrite {i : Instr} {s t : State} (hop : i.op = .eq ∨ i.op = .lt ∨ i.op = .le)
    (h : exec i s = .next t) (a : Addr) (w : Word) : exec i (s.memWrite a w) = .next (t.memWrite a w) := by
  cases i with
  | eqReg | eqImm | ltReg | ltImm | leReg | leImm =>
    cases h
    exact congrArg _ (skipUnless_memWrite s _ a w)
  | _ => simp [Instr.op] at hop

/-- R174: a step of a compare reads no word of memory but its own, whether it skips or not. -/
theorem step_compare_memWrite {s t : State} {a : Addr} (hrun : s.run = .running)
    (hop : opcodeOf (s.memRead s.pc) = .eq ∨ opcodeOf (s.memRead s.pc) = .lt ∨ opcodeOf (s.memRead s.pc) = .le)
    (h : step s = .next t) (ha : a ≠ s.pc) (w : Word) : step (s.memWrite a w) = .next (t.memWrite a w) := by
  rw [step_of_running hrun] at h
  rw [step_of_running (s := s.memWrite a w) hrun, fetch_memWrite ha]
  rw [← op_decode] at hop
  exact exec_compare_memWrite hop h a w

/-- Settles O31: the skipped word stands after the compare, so it is not the compare's own. -/
theorem skippedWordHasNoEffect : Obligations.SkippedWordHasNoEffect := by
  intro s t w hrun h _ hop
  have hnext : s.pc + 1#16 ≠ s.pc := by simp
  exact step_compare_memWrite hrun hop h hnext w

end Sys2Proof.Machine
end

section
/-! Faults (60_exceptions.md R180 to R189): the step that enters FAULTED, and the runs without one. -/

namespace Sys2Proof.Machine

/-- R81: bits 15:12 of a word are the code of its opcode. -/
theorem field_opcode (w : Word) : field w 12 4 = (opcodeOf w).code := (Op.code_ofCode _).symm

/-- R180, R185: a step that ends FAULTED is the fetch and the fault entry, for one of the two causes. -/
theorem step_faulted_cases {s t : State} (hrun : s.run = .running) (h : step s = .next t) (hfaulted : t.run = .faulted) :
    ∃ cause : FaultCause, t = s.fetch.raise cause ∧
      (cause = .unknownOpcode ∧ opcodeOf (s.memRead s.pc) = .unassigned ∨
       cause = .divisionByZero ∧ opcodeOf (s.memRead s.pc) = .div) := by
  rw [← op_decode]
  cases step_effect hrun h with
  | write | store | jump | compare | halt | dbg => simp [hrun] at hfaulted
  | unknownOpcode hop => exact ⟨_, rfl, .inl ⟨rfl, hop⟩⟩
  | divisionByZero hdiv => exact ⟨_, rfl, .inr ⟨rfl, op_of_divisor hdiv⟩⟩

/-- Settles O36: the fault entry's frame after the fetch, and what it records for each of the two causes. -/
theorem faultsArePrecise : Obligations.FaultsArePrecise := by
  intro s t hrun h hfaulted
  obtain ⟨cause, rfl, hcause⟩ := step_faulted_cases hrun h hfaulted
  obtain ⟨hregs, hpc, hcond, hmar, hdbg, -, hmem⟩ := faultFrame_raise s.fetch cause
  refine ⟨hregs, hmem, hcond, hmar, hdbg, hpc, State.raise_faultIr _ _, fetch_raise_faultPc s _, ?_⟩
  rw [hostReport_raise, State.fetch_ir, field_opcode]
  obtain ⟨rfl, hop⟩ | ⟨rfl, hop⟩ := hcause
  · simp [hop, Op.code]
  · simp [hop, Op.code]

/-- Every state reached in fewer than `k` steps satisfies `P`. -/
def AlwaysBefore (P : State → Prop) (k : Nat) (s : State) : Prop :=
  ∀ n < k, ∀ t : State, Host.Core.run core n s = .next t → P t

/-- If the machine is RUNNING, the word at PC neither has the unassigned opcode nor is a DIV by 0 (R181, R182). -/
def AtNoFaultingWord (s : State) : Prop :=
  s.run = .running → opcodeOf (s.memRead s.pc) ≠ .unassigned ∧ divisor (decode (s.memRead s.pc)) s ≠ some 0#16

/-- The states reached are the first one and those reached after the first step. -/
theorem alwaysBefore_succ {P : State → Prop} {s u : State} (h : step s = .next u) (k : Nat) :
    AlwaysBefore P (k + 1) s ↔ P s ∧ AlwaysBefore P k u := by
  have hstart : (∀ t : State, Host.Core.run core 0 s = .next t → P t) ↔ P s := by
    refine ⟨fun hall => hall s rfl, fun hs t ht => ?_⟩
    cases ht
    exact hs
  simp only [AlwaysBefore, Nat.forall_lt_succ_left, hstart, run_succ h]

/-- A run that never faults has no FAULTED state before step `k + 1`. -/
theorem neverFaults_iff (k : Nat) (s : State) : NeverFaults k s ↔ AlwaysBefore (·.run ≠ .faulted) (k + 1) s := by
  simp only [NeverFaults, AlwaysBefore, Nat.lt_succ_iff]

/-- The start of a run that never faults is not FAULTED. -/
theorem NeverFaults.run_ne_faulted {k : Nat} {s : State} (h : NeverFaults k s) : s.run ≠ .faulted :=
  h 0 (Nat.zero_le k) s rfl

/-- R180, R183: a step enters FAULTED at a faulting word and at no other. -/
theorem step_run_ne_faulted_iff {s u : State} (hs : s.run ≠ .faulted) (h : step s = .next u) :
    u.run ≠ .faulted ↔ AtNoFaultingWord s := by
  by_cases hrun : s.run = .running
  · obtain ⟨-, hfaulted⟩ := onlyHaltAndTwoFaultsEndARun s u hrun h
    simp only [AtNoFaultingWord, hrun, forall_const, ne_eq, hfaulted, not_or]
  · rw [step_of_not_running hrun] at h
    cases h
    simp [AtNoFaultingWord, hs, hrun]

/-- Settles O38, by induction on the number of steps: the first step leaves a state that is not FAULTED exactly when it
is not at a faulting word, and the rest of the run starts there. -/
theorem neverFaultsIffNoFaultingWordIsReached : Obligations.NeverFaultsIffNoFaultingWordIsReached := by
  intro k s hs
  change NeverFaults k s ↔ AlwaysBefore AtNoFaultingWord k s
  induction k generalizing s with
  | zero =>
    obtain ⟨u, hu⟩ := step_completes s
    rw [neverFaults_iff, alwaysBefore_succ hu]
    simp [AlwaysBefore, hs]
  | succ k ih =>
    obtain ⟨u, hu⟩ := step_completes s
    calc NeverFaults (k + 1) s
      _ ↔ s.run ≠ .faulted ∧ NeverFaults k u := by
        rw [neverFaults_iff, neverFaults_iff, alwaysBefore_succ hu]
      _ ↔ NeverFaults k u := and_iff_right hs
      _ ↔ u.run ≠ .faulted ∧ NeverFaults k u := (and_iff_right_of_imp NeverFaults.run_ne_faulted).symm
      _ ↔ u.run ≠ .faulted ∧ AlwaysBefore AtNoFaultingWord k u := and_congr_right (ih u)
      _ ↔ AtNoFaultingWord s ∧ AlwaysBefore AtNoFaultingWord k u := and_congr_left' (step_run_ne_faulted_iff hs hu)
      _ ↔ AlwaysBefore AtNoFaultingWord (k + 1) s := (alwaysBefore_succ hu k).symm

end Sys2Proof.Machine
end

section
/-! The reset sequence (70_reset_and_hazards.md R210 to R212): it is power-up with the registers and memory found. -/

namespace Sys2Proof.Machine

/-- R210, R211: apart from the general registers and memory, nothing of the state before a reset remains. -/
theorem State.resetSequence_eq_boot (s : State) (marInit : Word) :
    s.resetSequence marInit = State.boot s.regs marInit s.mem := rfl

/-- Settles O14: the values are those of power-up (O13), on the registers and memory that the sequence keeps. -/
theorem resetSequenceFromAnyState : Obligations.ResetSequenceFromAnyState := by
  intro s marInit
  obtain ⟨hreg, hpc, hcond, hmar, hmem, hrun, hcause, hir, hfaultPc, hdbg⟩ :=
    bootLeavesTheResetValues s.regs marInit s.mem
  rw [State.resetSequence_eq_boot]
  exact ⟨hcond, hmar, hpc, hrun, hcause, hir, hfaultPc, hdbg, hreg, State.memRead_congr hmem, rfl⟩

/-- Settles O15: the machine is RUNNING after a reset, and its PC is the header word. -/
theorem firstStepExecutesAtTheHeader : Obligations.FirstStepExecutesAtTheHeader := fun s marInit =>
  step_of_memRead (s.resetSequence_run marInit) rfl

end Sys2Proof.Machine
end
